-- ==== Sys2Proof/Word.lean ====
section
/-! DEFINITION. The word types of the SME: a register is 32 bits, a byte string's element 8 bits (00_scope.md R11, R13). -/

namespace Sys2Proof

/-- A 32-bit register value or command word (00_scope.md R11). Nothing in this block is signed. -/
abbrev Word := BitVec 32

/-- One byte of a byte string: entropy, a digest, a word of a wordlist. -/
abbrev Byte := BitVec 8

/-- The bit buffer: 264 stream bits, stream bit 0 the most significant (00_scope.md R12, 10_state.md R36). -/
abbrev BitBuffer := BitVec 264

/-- A 4-bit language code (10_state.md R25). -/
abbrev LangCode := BitVec 4

/-- An 11-bit word index, so always in 0..2047 (10_state.md R28, 30_encoding.md R63). -/
abbrev WordIndex := BitVec 11

/-- An offset into the 256-byte register window (10_state.md R22). -/
abbrev Offset := BitVec 8

end Sys2Proof
end

