-- ==== Sys2Proof/Syntax.lean ====
section
/-! DEFINITION. The syntax, whole: the nine commands of 30_encoding.md R64, the fields of the one command format (R62), the
host's bus operations (40_lifecycle.md R72) and the host script statements (R69, R70). -/

namespace Sys2Proof

/-- The commands, one constructor per row of the opcode map (30_encoding.md R64). An operand has its field's width, so
"no command can name an index outside the wordlist" (R63). -/
inductive Instr where
  | nop
  | checksum
  | extract (k : BitVec 5)
  | wordAt (i : WordIndex)
  | indexOf (p : BitVec 5)
  | begin (n : BitVec 5)
  | pack (k : BitVec 5) (i : WordIndex)
  | verify
  | wipe
  deriving DecidableEq, Repr

/-- The fields of format `C`, from bit 31 down (30_encoding.md R62). -/
structure Fields where
  r2 : BitVec 5
  idx : BitVec 11
  r1 : BitVec 3
  k : BitVec 5
  op : BitVec 8
  deriving DecidableEq, Repr

/-- What a host access addresses: an offset of the window, as the script notation names a register (30_encoding.md R69),
or a bus address, which the SME decodes (20_memory.md R49). -/
inductive Target where
  | offset (off : Offset)
  | busAddr (a : Nat)
  deriving DecidableEq, Repr

/-- The widths of a host access in bits (20_memory.md R50). Only 32 is accepted. -/
inductive Width where
  | w8
  | w16
  | w32
  | w64
  deriving DecidableEq, Repr

/-- What the host can do to the block (40_lifecycle.md R72, 70_reset_and_hazards.md R147). -/
inductive HostOp where
  /-- A read; `expected` is the value of `rd REG -> v`, none for `rd REG` (30_encoding.md R69). -/
  | read (t : Target) (w : Width) (expected : Option Word)
  /-- A write of v. Of a width other than 32 bits only the attempt matters: it is a bus error (20_memory.md R50). -/
  | write (t : Target) (w : Width) (v : Word)
  /-- Read `STATUS` until bit 0 of the value read is 0 (30_encoding.md R70). -/
  | poll
  /-- Assert the reset input: one atomic transition (70_reset_and_hazards.md R134). -/
  | assertReset
  /-- Release the reset input (70_reset_and_hazards.md R139). -/
  | releaseReset
  deriving DecidableEq, Repr

/-- A statement or pseudo-instruction of the host script notation (30_encoding.md R69, R70). Operands are numbers as
written; `Stmt.wellFormed` says which an assembler accepts. -/
inductive Stmt where
  | wr (off : Offset) (v : Word)
  | rd (off : Offset)
  | rdExpect (off : Offset) (v : Word)
  | poll
  | nop
  | checksum
  | extract (k : Nat)
  | wordAt (i : Nat)
  | indexOf (p : Nat)
  | begin (n : Nat)
  | pack (k i : Nat)
  | verify
  | wipe
  | setword (s : List Byte)
  | setbuf (vs : List Word)
  deriving DecidableEq, Repr

end Sys2Proof
end

