-- ==== Sys2Proof/Machine/State.lean ====
section
/-! DEFINITION. The machine's state: the tuple of 10_state.md R47, and beside it what the host agent is about to do and has
seen, as plain data. -/

namespace Sys2Proof.Machine

/-- What a host read returned: the offset, the value, and the value the script expected, if it named one
(30_encoding.md R69). -/
structure Response where
  off : Offset
  value : Word
  expected : Option Word
  deriving DecidableEq, Repr

/-- The state. The fields down to `dig` are the SME's, "the complete mutable state" of 10_state.md R47. `resetLine` is its
reset input. The last five are the model's own: the host agent and the free choices (INVENTORY.md, logs 1 to 3, DESIGN CHOICE). -/
@[ext]
structure State where
  /-- `CTRL.CS` (R25) -/
  ctrlCs : BitVec 4
  /-- `CTRL.LANG` (R25) -/
  ctrlLang : LangCode
  /-- `STATUS.BUSY` (R26) -/
  busy : Bool
  /-- `STATUS.DONE` (R26) -/
  done : Bool
  /-- `STATUS.ERR` (R26) -/
  err : Bool
  /-- `STATUS.CKV`, the checksum-valid flag (R26, R39) -/
  ckv : Bool
  /-- `STATUS.FOUND` (R26) -/
  found : Bool
  /-- `STATUS.OVR` (R26) -/
  ovr : Bool
  /-- `STATUS.ECODE` (R26) -/
  ecode : BitVec 4
  /-- `CMDQ`, the latched command word, none before the first command (R41) -/
  cmdq : Option Word
  /-- `INDEX.IDX` (R28) -/
  indexIdx : WordIndex
  /-- `CKSUM.VAL` (R29) -/
  cksumVal : BitVec 8
  /-- `CKSUM.LEN` (R29) -/
  cksumLen : BitVec 4
  /-- `ERRINFO.POS` (R30) -/
  errPos : BitVec 5
  /-- `WIN_LEN.LEN` (R32) -/
  winLen : BitVec 6
  /-- `WIN0`..`WIN7` (R33) -/
  win : Vector Word 8
  /-- `WOUT_LEN.LEN` (R34) -/
  woutLen : BitVec 6
  /-- `WOUT0`..`WOUT7` (R35) -/
  wout : Vector Word 8
  /-- the bit buffer, `BUF0`..`BUF7` and `BUF8[31:24]`, stream bit 0 first (R36; log 14, DEDUCED) -/
  buf : BitBuffer
  /-- `DIG0`..`DIG7` (R38) -/
  dig : Vector Word 8
  /-- the reset input is asserted (70_reset_and_hazards.md R134; log 8, DESIGN CHOICE) -/
  resetLine : Bool
  /-- what is left of the host's program (log 1, DESIGN CHOICE) -/
  script : List HostOp
  /-- what the host's reads returned, oldest first (log 1, DESIGN CHOICE) -/
  responses : List Response
  /-- how many host steps may still pass before the command in flight is performed (log 2, DESIGN CHOICE) -/
  delay : Nat
  /-- the latencies given to the commands to come (log 2, DESIGN CHOICE) -/
  delays : List Nat
  /-- how many free values have been drawn (logs 2, 3, DESIGN CHOICE) -/
  draws : Nat
  deriving DecidableEq, Repr

/-- Why a host's program is faulted (70_reset_and_hazards.md R146). No command raises one: a command's errors are codes in
`STATUS.ECODE` (60_exceptions.md R119). -/
inductive Fault where
  /-- A host access of a width other than 32 bits: a bus error with no effect on SME state (20_memory.md R50). Raised by
  the host's step; safe: "a program that relies on a narrow access proves nothing". -/
  | busErrorWidth
  /-- A 32-bit host access with `off mod 4 ≠ 0`: a bus error with no effect on SME state (20_memory.md R51). Raised by the
  host's step; safe, as above. -/
  | busErrorAlignment
  deriving DecidableEq, Repr

/-- What the model gives no meaning to. -/
inductive Refusal where
  /-- An instruction without a meaning, by its mnemonic. No arm of `exec` answers it; safe. -/
  | notModelled (mnemonic : String)
  /-- A host access while reset is asserted: "An access during reset is outside this spec" (70_reset_and_hazards.md R139,
  93_implementation_defined.md U3). Raised by the host's step; safe. -/
  | accessDuringReset
  /-- A host access to a bus address outside the window: not an access to the SME, "and this spec says nothing of it"
  (20_memory.md R49). Raised by the host's step; safe. -/
  | outsideWindow
  /-- The engine is to perform and no command is latched. No run reaches it: `BUSY` and `CMDQ` are set together
  (40_lifecycle.md R76). Raised by the engine's step; safe. -/
  | noCommandLatched
  deriving DecidableEq, Repr

/-- The machine right after reset: every component of 10_state.md R47 at its reset value (70_reset_and_hazards.md R134,
R135). The host's fields are the model's choice (logs 1, 2, 3, 8, DESIGN CHOICE). -/
def State.reset : State where
  ctrlCs := 0#4
  ctrlLang := 0#4
  busy := false
  done := false
  err := false
  ckv := false
  found := false
  ovr := false
  ecode := 0#4
  cmdq := none
  indexIdx := 0#11
  cksumVal := 0#8
  cksumLen := 0#4
  errPos := 0#5
  winLen := 0#6
  win := Vector.replicate 8 0#32
  woutLen := 0#6
  wout := Vector.replicate 8 0#32
  buf := 0#264
  dig := Vector.replicate 8 0#32
  resetLine := false
  script := []
  responses := []
  delay := 0
  delays := []
  draws := 0

end Sys2Proof.Machine
end

