-- ==== Sys2Proof/Machine/Flags.lean ====
section
/-! DEFINITION. `STATUS` and the error codes: the register's word from its fields, and what `STATUS.ECODE` and
`ERRINFO.POS` are set to for each error. -/

namespace Sys2Proof.Machine

/-- The errors (60_exceptions.md R120). -/
inductive CmdError where
  /-- `CHECKSUM`, `EXTRACT`: `CTRL.CS ∉ {4..8}` -/
  | invalidStrength
  /-- never raised: the entropy source is outside the SME (60_exceptions.md R121) -/
  | entropySourceUnavailable
  /-- `WORD_AT`, `INDEX_OF`: `CTRL.LANG ∉ LANG_SET` -/
  | unsupportedLanguage
  /-- `BEGIN`: `K ∉ {12,15,18,21,24}`; `PACK`, `VERIFY`: `CTRL.CS ∉ {4..8}` -/
  | invalidWordCount
  /-- `INDEX_OF`: no ROM entry matches `WIN`; carries the position tag -/
  | unknownWord (position : BitVec 5)
  /-- `VERIFY`: the recomputed checksum is not the supplied bits -/
  | checksumMismatch
  /-- any word: `CMDQ` matches no row -/
  | illegalCommand
  /-- `EXTRACT`, `PACK`: `K ≥ 3·CTRL.CS` -/
  | indexRange
  /-- `EXTRACT`: `STATUS.CKV = 0` -/
  | notReady
  deriving DecidableEq, Repr

/-- How a command's pseudocode ended (40_lifecycle.md R80). -/
inductive Result where
  | ok
  | error (e : CmdError)
  deriving DecidableEq, Repr

/-- The code written to `STATUS.ECODE` (60_exceptions.md R120). -/
def errorCode : CmdError → BitVec 4
  | .invalidStrength => 1#4
  | .entropySourceUnavailable => 2#4
  | .unsupportedLanguage => 3#4
  | .invalidWordCount => 4#4
  | .unknownWord _ => 5#4
  | .checksumMismatch => 6#4
  | .illegalCommand => 8#4
  | .indexRange => 9#4
  | .notReady => 10#4

/-- `STATUS.ERR` after a command (40_lifecycle.md R80). -/
def resultErr : Result → Bool
  | .ok => false
  | .error _ => true

/-- `STATUS.ECODE` after a command (40_lifecycle.md R80). -/
def resultCode : Result → BitVec 4
  | .ok => 0#4
  | .error e => errorCode e

/-- `ERRINFO.POS` after a command: the position tag for `UnknownWord`, else 0 (10_state.md R30, 40_lifecycle.md R80). -/
def resultPos : Result → BitVec 5
  | .error (.unknownWord p) => p
  | _ => 0#5

/-- The `STATUS` register from its fields: [11:8] `ECODE`, 5 `OVR`, 4 `FOUND`, 3 `CKV`, 2 `ERR`, 1 `DONE`, 0 `BUSY`, every
other bit 0 (10_state.md R26). -/
def statusWord (s : State) : Word :=
  0#20 ++ s.ecode ++ 0#2 ++ BitVec.ofBool s.ovr ++ BitVec.ofBool s.found ++ BitVec.ofBool s.ckv ++
    BitVec.ofBool s.err ++ BitVec.ofBool s.done ++ BitVec.ofBool s.busy

end Sys2Proof.Machine
end

