-- ==== Sys2Proof/Config.lean ====
section
/-! DEFINITION. What the implementation fixes and the spec leaves as a parameter (00_scope.md R9), and the free values.
Each free quantity is an `opaque` constant without a body: nothing can be proved about its value. -/

namespace Sys2Proof

/-! ## The language set (00_scope.md R9, 10_state.md R31; log 4, DESIGN CHOICE) -/

/-- The language codes an implementation supports beside code 0, as a bit set. Free (93_implementation_defined.md U7). -/
opaque Config.langSetRaw : BitVec 16

/-- `l ∈ LANG_SET`. Code 0 (english) is always a member (00_scope.md R9), so an ill-formed set (U6) cannot be expressed. -/
def Config.langSupported (l : LangCode) : Bool :=
  l == 0#4 || Config.langSetRaw.getLsbD l.toNat

/-- `LANG_SET` as the bit set that the `LANGS` register shows: bit l is 1 exactly when l ∈ `LANG_SET` (10_state.md R31). -/
def Config.langSet : BitVec 16 := Config.langSetRaw ||| 1#16

/-! ## The wordlist ROM (10_state.md R43 to R46; log 5, DESIGN CHOICE) -/

/-- "abandon" in ASCII (10_state.md R45). -/
def Config.abandon : List Byte := [0x61#8, 0x62#8, 0x61#8, 0x6E#8, 0x64#8, 0x6F#8, 0x6E#8]

/-- "about" in ASCII (10_state.md R45). -/
def Config.about : List Byte := [0x61#8, 0x62#8, 0x6F#8, 0x75#8, 0x74#8]

/-- The entries the spec fixes: `ROM(0, 0)` and `ROM(0, 3)` (10_state.md R45). -/
def Config.knownWord (l : LangCode) (i : WordIndex) : Option (List Byte) :=
  if l = 0#4 then
    if i = 0#11 then some Config.abandon else if i = 3#11 then some Config.about else none
  else none

/-- `WMAX`, the greatest word length in bytes (00_scope.md R9). -/
def Config.wmax : Nat := 32

/-- The byte is an ASCII whitespace character: space, or 0x09..0x0D. -/
def Config.isWhitespace (b : Byte) : Bool := b == 0x20#8 || (decide (0x09 ≤ b.toNat) && decide (b.toNat ≤ 0x0D))

/-- The byte form of english words: "lower-case ASCII with no surrounding whitespace" (43_wordlist.md R111), read as widely
as the words allow: ASCII bytes, none of them an upper-case letter (log 18, DEDUCED). -/
def Config.englishForm (w : List Byte) : Bool :=
  (w.all fun b => decide (b.toNat < 0x80) && !(decide (0x41 ≤ b.toNat) && decide (b.toNat ≤ 0x5A))) &&
    w.head?.all (!Config.isWhitespace ·) && w.getLast?.all (!Config.isWhitespace ·)

/-- The byte form of another language's words, its script, encoding and normalisation, as the configuration gives it. Free
(10_state.md R44 (d), 93_implementation_defined.md U9; log 18, DESIGN CHOICE). -/
opaque Config.nativeFormRaw : LangCode → List Byte → Bool

/-- `WORDLIST(l)` as the implementation gives it, well-formed or not. Free (93_implementation_defined.md U8). -/
opaque Config.wordlistRaw : LangCode → WordIndex → List Byte

/-- 10_state.md R44 (b), (c), (d) and R45 for one language's table in a given byte form: distinct entries, each of 1..`WMAX`
bytes and of that form, and the entries the spec fixes at their places. R44 (a), 2048 entries, is the type's. -/
def Config.tableOk (l : LangCode) (form : List Byte → Bool) (t : WordIndex → List Byte) : Bool :=
  decide (∀ i j : WordIndex, t i = t j → i = j) &&
    decide (∀ i : WordIndex, 1 ≤ (t i).length ∧ (t i).length ≤ Config.wmax) &&
    decide (∀ i : WordIndex, form (t i) = true) &&
    decide (∀ i : WordIndex, ∀ w ∈ Config.knownWord l i, t i = w)

/-- The configuration of language l, its table in its byte form, is well-formed (10_state.md R44). -/
def Config.rawOk (l : LangCode) : Bool :=
  Config.tableOk l (if l = 0#4 then Config.englishForm else Config.nativeFormRaw l) (Config.wordlistRaw l)

/-- A word of three letters of a..p for each index: bits 10..8, 7..4 and 3..0. -/
def Config.letters (i : WordIndex) : List Byte :=
  [0x61#8 + (i.extractLsb' 8 3).setWidth 8, 0x61#8 + (i.extractLsb' 4 4).setWidth 8,
    0x61#8 + (i.extractLsb' 0 4).setWidth 8]

/-- A well-formed table in english's byte form, standing with that form where a language's configuration is ill-formed: no
claim can tell which of the two stands, so a claim holds for every well-formed configuration and for no other (10_state.md
R44 "A model refuses a configuration that breaks (a) to (d)"; log 5, DESIGN CHOICE). -/
def Config.fallbackWord (l : LangCode) (i : WordIndex) : List Byte :=
  match Config.knownWord l i with
  | some w => w
  | none => Config.letters i

/-- The byte form in which language l's table stores its words, and so the one the host must present (10_state.md R44 (d),
43_wordlist.md R111). -/
def Config.nativeForm (l : LangCode) (w : List Byte) : Bool :=
  if l = 0#4 then Config.englishForm w
  else if Config.rawOk l then Config.nativeFormRaw l w else Config.englishForm w

/-- `ROM(l, i)`, the byte string at index i of language l's wordlist (00_scope.md R14, 10_state.md R44). The entries the
spec fixes are read first, so that they evaluate. -/
def Config.rom (l : LangCode) (i : WordIndex) : List Byte :=
  match Config.knownWord l i with
  | some w => w
  | none => if Config.rawOk l then Config.wordlistRaw l i else Config.fallbackWord l i

/-! ## The window's bus address (20_memory.md R49; log 6, DESIGN CHOICE) -/

/-- The 256-byte page the platform places the window at. Free (93_implementation_defined.md U10). -/
opaque Config.basePage : Nat

/-- `BASE`, a multiple of 0x100 (20_memory.md R49). -/
def Config.base : Nat := Config.basePage * 0x100

/-! ## Free values -/

/-- The n-th draw of the value of a read that the spec leaves unspecified: a result register read while busy
(40_lifecycle.md R78, 93_implementation_defined.md U1; log 3, DESIGN CHOICE). -/
opaque Config.busyRead : Nat → Word

/-- The n-th draw of a latency: how many host steps may pass before the engine performs the command just issued. Any
natural number, so always finite (40_lifecycle.md R83, 93_implementation_defined.md U11; log 2, DESIGN CHOICE). -/
opaque Config.latency : Nat → Nat

end Sys2Proof
end

