-- ==== Sys2Proof/WellFormed.lean ====
section
/-! DEFINITION. Which terms of the syntax are well-formed: command words by the zero-field rule (30_encoding.md R65, R66),
script statements by what an assembler must reject (R70). An `Instr` needs no check: its operands have their fields' widths
(R62, R63), so an operand that does not fit cannot be written. -/

namespace Sys2Proof

/-- The command uses field `K` (30_encoding.md R64, the operands column). -/
def usesK (op : BitVec 8) : Bool :=
  op == 0x02#8 || op == 0x04#8 || op == 0x05#8 || op == 0x06#8

/-- The command uses field `IDX` (30_encoding.md R64, the operands column). -/
def usesIdx (op : BitVec 8) : Bool :=
  op == 0x03#8 || op == 0x06#8

/-- A legal command word, by its fields: an assigned opcode, reserved fields 0, unused fields 0 (30_encoding.md R65, R66). -/
def Fields.wellFormed (f : Fields) : Bool :=
  decide (f.op.toNat ≤ 8) && f.r2 == 0#5 && f.r1 == 0#3 &&
    (usesK f.op || f.k == 0#5) && (usesIdx f.op || f.idx == 0#11)

/-- What an assembler accepts: "An assembler must reject `k`, `p` or `n` outside 0..31 and `i` outside 0..2047";
"`setword` must reject a string longer than 32 bytes" (30_encoding.md R70). `setbuf` names `BUF0`..`BUFn`, of which there
are nine (10_state.md R36). -/
def Stmt.wellFormed : Stmt → Bool
  | .wr _ _ | .rd _ | .rdExpect _ _ | .poll | .nop | .checksum | .verify | .wipe => true
  | .extract k => decide (k ≤ 31)
  | .wordAt i => decide (i ≤ 2047)
  | .indexOf p => decide (p ≤ 31)
  | .begin n => decide (n ≤ 31)
  | .pack k i => decide (k ≤ 31) && decide (i ≤ 2047)
  | .setword s => decide (s.length ≤ 32)
  | .setbuf vs => decide (1 ≤ vs.length) && decide (vs.length ≤ 9)

end Sys2Proof
end

