-- ==== Sys2Proof/Decode.lean ====
section
/-! DEFINITION. Decoding of command words, total on every 32-bit word (30_encoding.md R67), and after it the encoder, written
from the same rows (R64) and format (R62). -/

namespace Sys2Proof

/-- Why a word is no command (30_encoding.md R66). The hardware reports both as `IllegalCommand`. -/
inductive DecodeError where
  /-- `OP` in 0x09..0xFF. -/
  | unassignedOpcode
  /-- `OP` in 0x00..0x08 and a 1 in a bit outside the row's operand fields: the word breaks the zero-field rule (R65). -/
  | nonzeroUnusedField
  deriving DecidableEq, Repr

/-- `K = zext_5(cmd[12:8])` (30_encoding.md R63). -/
def wordK (w : Word) : BitVec 5 := w.extractLsb' 8 5

/-- `IDX = zext_11(cmd[26:16])` (30_encoding.md R63). -/
def wordIdx (w : Word) : BitVec 11 := w.extractLsb' 16 11

/-- `OP = cmd[7:0]` (30_encoding.md R62). -/
def wordOp (w : Word) : BitVec 8 := w.extractLsb' 0 8

/-- All the fields of format `C` (30_encoding.md R62). -/
def fieldsOf (w : Word) : Fields where
  r2 := w.extractLsb' 27 5
  idx := wordIdx w
  r1 := w.extractLsb' 13 3
  k := wordK w
  op := wordOp w

/-- A row of the opcode map: `match`, `mask`, and the command the row's operand fields give. -/
structure OpcodeRow where
  pattern : Word
  mask : Word
  command : BitVec 5 → BitVec 11 → Instr

/-- The opcode map, row by row (30_encoding.md R64). -/
def opcodeMap : List OpcodeRow :=
  [ ⟨0x00000000#32, 0xFFFFFFFF#32, fun _ _ => .nop⟩,
    ⟨0x00000001#32, 0xFFFFFFFF#32, fun _ _ => .checksum⟩,
    ⟨0x00000002#32, 0xFFFFE0FF#32, fun k _ => .extract k⟩,
    ⟨0x00000003#32, 0xF800FFFF#32, fun _ i => .wordAt i⟩,
    ⟨0x00000004#32, 0xFFFFE0FF#32, fun k _ => .indexOf k⟩,
    ⟨0x00000005#32, 0xFFFFE0FF#32, fun k _ => .begin k⟩,
    ⟨0x00000006#32, 0xF800E0FF#32, fun k i => .pack k i⟩,
    ⟨0x00000007#32, 0xFFFFFFFF#32, fun _ _ => .verify⟩,
    ⟨0x00000008#32, 0xFFFFFFFF#32, fun _ _ => .wipe⟩ ]

/-- "A word w selects the row with `w ∧ mask = match`" (30_encoding.md R64). -/
def rowMatches (w : Word) (r : OpcodeRow) : Bool := (w &&& r.mask) == r.pattern

/-- The name under which a word that matches no row is rejected (30_encoding.md R66). -/
def rejection (w : Word) : DecodeError :=
  if (wordOp w).toNat ≤ 8 then .nonzeroUnusedField else .unassignedOpcode

/-- Decoding: the first matching row, with `K` and `IDX` taken from their fields; else the word is illegal (30_encoding.md
R67). -/
def decode (w : Word) : Except DecodeError Instr :=
  match opcodeMap.find? (rowMatches w) with
  | some r => .ok (r.command (wordK w) (wordIdx w))
  | none => .error (rejection w)

/-- The instruction read from a table word of `nbits` bits: the one command word, its bits above `nbits` 0. A word of more
than 32 bits is no command (30_encoding.md R61, R68). -/
def decodeTableWord (nbits w : Nat) : Option Instr :=
  if nbits ≤ 32 then (decode (BitVec.ofNat 32 (w % 2 ^ nbits))).toOption else none

/-! ## The encoder -/

/-- A word from its fields: `R2 ‖ IDX ‖ R1 ‖ K ‖ OP` (30_encoding.md R62). -/
def assemble (f : Fields) : Word := f.r2 ++ f.idx ++ f.r1 ++ f.k ++ f.op

/-- The fields of a command's word: its opcode, its operands, every unused field 0 (30_encoding.md R64, R65). -/
def encodeFields : Instr → Fields
  | .nop => ⟨0#5, 0#11, 0#3, 0#5, 0x00#8⟩
  | .checksum => ⟨0#5, 0#11, 0#3, 0#5, 0x01#8⟩
  | .extract k => ⟨0#5, 0#11, 0#3, k, 0x02#8⟩
  | .wordAt i => ⟨0#5, i, 0#3, 0#5, 0x03#8⟩
  | .indexOf p => ⟨0#5, 0#11, 0#3, p, 0x04#8⟩
  | .begin n => ⟨0#5, 0#11, 0#3, n, 0x05#8⟩
  | .pack k i => ⟨0#5, i, 0#3, k, 0x06#8⟩
  | .verify => ⟨0#5, 0#11, 0#3, 0#5, 0x07#8⟩
  | .wipe => ⟨0#5, 0#11, 0#3, 0#5, 0x08#8⟩

/-- The command word of an instruction (30_encoding.md R64). -/
def encode (i : Instr) : Word := assemble (encodeFields i)

end Sys2Proof
end

