-- ==== Sys2Proof/Machine/Operands.lean ====
section
/-! DEFINITION. The operands a command reads, beyond the `K` and `IDX` fields that decoding gives it: stream bits, entropy
bytes, groups and checksum bits of the bit buffer; byte strings packed in register files; the quantities that follow from
`CTRL.CS`; the wordlist looked up by index and by content. -/

namespace Sys2Proof.Machine

/-! ## The bit stream (00_scope.md R12) -/

/-- `BB[p .. p+n−1]`, the first bit the most significant (00_scope.md R12). -/
def streamSlice (b : BitBuffer) (p n : Nat) : BitVec n := b.extractLsb' (264 - p - n) n

/-- The bit buffer with `BB[p .. p+n−1]` replaced by v, most significant bit first, and every other stream bit kept. -/
def streamPut {n : Nat} (b : BitBuffer) (p : Nat) (v : BitVec n) : BitBuffer :=
  let low := 264 - p - n
  (b &&& ~~~((BitVec.allOnes n).setWidth 264 <<< low)) ||| (v.setWidth 264 <<< low)

/-! ## Quantities that follow from `CTRL.CS` (00_scope.md R15) -/

/-- `valid_cs(CS)`: CS ∈ {4,5,6,7,8}. -/
def validCs (cs : BitVec 4) : Bool := decide (4 ≤ cs.toNat) && decide (cs.toNat ≤ 8)

/-- `ENT = 32·CS`, the entropy length in bits. -/
def entBits (cs : BitVec 4) : Nat := 32 * cs.toNat

/-- `NB = 4·CS`, the entropy length in bytes. -/
def entropyLength (cs : BitVec 4) : Nat := 4 * cs.toNat

/-- `NW = 3·CS`, the word count. -/
def wordCount (cs : BitVec 4) : Nat := 3 * cs.toNat

/-- `L = 33·CS`, the bit buffer's length. -/
def bufferLength (cs : BitVec 4) : Nat := 33 * cs.toNat

/-! ## Parts of the bit buffer (10_state.md R36, R37) -/

/-- The stored bits of `BUFi` for i in 0..7: stream bits 32i .. 32i+31 (10_state.md R36). -/
def bufReg (b : BitBuffer) (i : Nat) : Word := streamSlice b (32 * i) 32

/-- `BUF8`: stream bits 256..263 in [31:24], and [23:0] reading 0 (10_state.md R36). -/
def bufReg8 (b : BitBuffer) : Word := streamSlice b 256 8 ++ 0#24

/-- Entropy byte j: stream bits 8j .. 8j+7 (10_state.md R37). -/
def entropyByte (b : BitBuffer) (j : Nat) : Byte := streamSlice b (8 * j) 8

/-- The entropy bytes 0 .. NB−1 (10_state.md R37). -/
def entropyBytes (cs : BitVec 4) (b : BitBuffer) : List Byte :=
  (List.range (entropyLength cs)).map (entropyByte b)

/-- The supplied checksum bits `BB[ENT .. ENT+CS−1]` = `BUF[CS][31 : 32−CS]`, right-aligned (10_state.md R37). -/
def checksumBits (cs : BitVec 4) (b : BitBuffer) : BitVec 8 :=
  (streamSlice b (entBits cs) cs.toNat).setWidth 8

/-- The buffer with `BUF[CS][31 : 32−CS]` replaced by the CS low bits of c, and every other bit kept (41_checksum.md
R97). -/
def putChecksumBits (cs : BitVec 4) (c : BitVec 8) (b : BitBuffer) : BitBuffer :=
  streamPut b (entBits cs) (c.setWidth cs.toNat)

/-- `G(k) = BB[11k .. 11k+10]`, group k of the bit buffer (42_codec.md R100). -/
def group (b : BitBuffer) (k : Nat) : WordIndex := streamSlice b (11 * k) 11

/-- The buffer with group k replaced by i: `BB(11k + t) <- bit (10 − t) of i` for t in 0..10 (42_codec.md R103). -/
def putGroup (k : Nat) (i : WordIndex) (b : BitBuffer) : BitBuffer := streamPut b (11 * k) i

/-! ## Byte strings in registers (10_state.md R33, R35, R38; 20_memory.md R52) -/

/-- The four bytes of a register, the first in bits [31:24]. -/
def wordBytes (w : Word) : List Byte :=
  [w.extractLsb' 24 8, w.extractLsb' 16 8, w.extractLsb' 8 8, w.extractLsb' 0 8]

/-- The 32-byte string in eight registers: byte 4w + q is bits [31 − 8q : 24 − 8q] of register w. -/
def unpackBytes (v : Vector Word 8) : List Byte := v.toList.flatMap wordBytes

/-- The register that holds bytes 4w .. 4w+3 of a string, missing bytes 0. -/
def packWord (b : List Byte) (w : Nat) : Word :=
  b.getD (4 * w) 0#8 ++ b.getD (4 * w + 1) 0#8 ++ b.getD (4 * w + 2) 0#8 ++ b.getD (4 * w + 3) 0#8

/-- Eight registers that hold a string of up to 32 bytes, zero filled. -/
def packBytes (b : List Byte) : Vector Word 8 :=
  #v[packWord b 0, packWord b 1, packWord b 2, packWord b 3, packWord b 4, packWord b 5, packWord b 6, packWord b 7]

/-- The input word `WIN byte 0 ‖ … ‖ WIN byte n−1` for n = `WIN_LEN.LEN` in 1..32, and none for another n, which matches no
entry (43_wordlist.md R109). -/
def inputWord (s : State) : Option (List Byte) :=
  if 1 ≤ s.winLen.toNat ∧ s.winLen.toNat ≤ 32 then some ((unpackBytes s.win).take s.winLen.toNat) else none

/-! ## The wordlist by content (10_state.md R46, 43_wordlist.md R109) -/

/-- Every index, in the order the model tries them. At most one entry matches (10_state.md R44 (b)), so the order decides
nothing; the two indices whose entries the spec fixes (R45) stand first so that searches for them evaluate. -/
def camOrder : List WordIndex := 0#11 :: 3#11 :: (List.range 2048).map (BitVec.ofNat 11)

/-- `CAM(l, w)`: the index i with `ROM(l, i) = w`, if there is one (10_state.md R46). -/
def cam (l : LangCode) (w : List Byte) : Option WordIndex :=
  camOrder.find? fun i => Config.rom l i == w

/-- The index that matches the input word in language l (43_wordlist.md R109). -/
def matchingIndex (l : LangCode) (s : State) : Option WordIndex :=
  match inputWord s with
  | some w => cam l w
  | none => none

/-- `BEGIN`'s legal word counts (42_codec.md R102). -/
def legalWordCount (n : BitVec 5) : Bool :=
  n == 12#5 || n == 15#5 || n == 18#5 || n == 21#5 || n == 24#5

end Sys2Proof.Machine
end

