-- ==== Sys2Proof/Machine/Ops.lean ====
section
/-! DEFINITION. The named operations on the registers that commands and host accesses share. Ending a command, with or
without an error, is ONE operation, `finish`: the SME has no trap (60_exceptions.md R119, R129), and `raise` is `finish`
with an error (R125). -/

namespace Sys2Proof.Machine

/-! ## Ending a command (40_lifecycle.md R80, 60_exceptions.md R125) -/

/-- `finish`: `BUSY`, `DONE`, `ERR`, `ECODE` and `ERRINFO.POS`; nothing else (40_lifecycle.md R80). `CMDQ` keeps its value,
which means nothing once `BUSY = 0` (10_state.md R41; log 7, DESIGN CHOICE). -/
def finish (r : Result) (s : State) : State :=
  { s with busy := false, done := true, err := resultErr r, ecode := resultCode r, errPos := resultPos r }

/-- The end of a command's pseudocode: the state it leaves and `complete()` or `raise E(info)`, either one running `finish`
(40_lifecycle.md R77, R80). -/
def endCommand (p : State × Result) : Host.Outcome State Fault Refusal := .next (finish p.2 p.1)

/-! ## Register updates -/

/-- `BUF[0..7] <- 0; BUF8[31:24] <- 0; DIG[0..7] <- 0; CKSUM.VAL <- 0; CKSUM.LEN <- 0; STATUS.CKV <- 0`: what `BEGIN`, a
failing `VERIFY` and `WIPE` have in common (42_codec.md R102, 41_checksum.md R98, 44_secure.md R114). -/
def clearBuffer (s : State) : State :=
  { s with buf := 0#264, dig := Vector.replicate 8 0#32, cksumVal := 0#8, cksumLen := 0#4, ckv := false }

/-- `DIG <- D; CKSUM.VAL <- c; CKSUM.LEN <- CS; STATUS.CKV <- 1`: what `CHECKSUM` and a successful `VERIFY` have in common
(41_checksum.md R97, R98). -/
def storeDigest (cs : BitVec 4) (d : List Byte) (c : BitVec 8) (s : State) : State :=
  { s with dig := packBytes d, cksumVal := c, cksumLen := cs, ckv := true }

/-- `WOUT_LEN.LEN <- len(w)` and all 32 bytes of `WOUT`, zero filled (43_wordlist.md R108). -/
def storeWord (w : List Byte) (s : State) : State :=
  { s with woutLen := BitVec.ofNat 6 w.length, wout := packBytes w }

/-- Every secret and working register zeroed (44_secure.md R114). -/
def wipeRegisters (s : State) : State :=
  { clearBuffer s with
    indexIdx := 0#11
    winLen := 0#6
    win := Vector.replicate 8 0#32
    woutLen := 0#6
    wout := Vector.replicate 8 0#32
    found := false }

/-! ## Issuing a command (40_lifecycle.md R76) -/

/-- `issue(v)`: the word is latched, unchecked (40_lifecycle.md R76). -/
def latch (v : Word) (s : State) : State :=
  { s with cmdq := some v, busy := true, done := false, err := false, ecode := 0#4 }

/-- The latency of the command just issued: the next one given, else a draw (40_lifecycle.md R83; log 2, DESIGN CHOICE). -/
def drawLatency (s : State) : State :=
  { s with
    delay := s.delays.headD (Config.latency s.draws)
    delays := s.delays.tail
    draws := if s.delays.isEmpty then s.draws + 1 else s.draws }

/-- An accepted write of v to `CMD` (40_lifecycle.md R76). -/
def issue (v : Word) (s : State) : State := drawLatency (latch v s)

/-! ## Reset (70_reset_and_hazards.md R134) -/

/-- The one atomic transition of reset: every register of the block takes its reset value, and a latched command is
abandoned. The host agent, outside the block, keeps what it holds. -/
def resetBlock (s : State) : State :=
  { State.reset with
    resetLine := s.resetLine
    script := s.script
    responses := s.responses
    delay := s.delay
    delays := s.delays
    draws := s.draws }

end Sys2Proof.Machine
end

