-- ==== Sys2Proof/Machine/Sha256.lean ====
section
/-! DEFINITION. SHA-256 as 41_checksum.md R85 to R94 give it, for a message of any length, and the checksum value (R96). The
engine applies it to 16 to 32 bytes only (R95). Its working variables are no state (10_state.md R42). -/

namespace Sys2Proof.Machine

/-- `ROTR^n`, for 0 < n < 32 (R86). -/
def rotr (n : Nat) (x : Word) : Word := (x >>> n) ||| (x <<< (32 - n))

/-- `Ch` (R87). -/
def shaCh (x y z : Word) : Word := (x &&& y) ^^^ (~~~x &&& z)

/-- `Maj` (R87). -/
def shaMaj (x y z : Word) : Word := (x &&& y) ^^^ (x &&& z) ^^^ (y &&& z)

/-- `Σ0` (R87). -/
def bigSigma0 (x : Word) : Word := rotr 2 x ^^^ rotr 13 x ^^^ rotr 22 x

/-- `Σ1` (R87). -/
def bigSigma1 (x : Word) : Word := rotr 6 x ^^^ rotr 11 x ^^^ rotr 25 x

/-- `σ0` (R87). -/
def smallSigma0 (x : Word) : Word := rotr 7 x ^^^ rotr 18 x ^^^ (x >>> 3)

/-- `σ1` (R87). -/
def smallSigma1 (x : Word) : Word := rotr 17 x ^^^ rotr 19 x ^^^ (x >>> 10)

/-- The round constants K_0 .. K_63, in the spec's rows r0 to r7 (R88). -/
def roundConstants : List Word :=
  [0x428a2f98#32, 0x71374491#32, 0xb5c0fbcf#32, 0xe9b5dba5#32, 0x3956c25b#32, 0x59f111f1#32, 0x923f82a4#32, 0xab1c5ed5#32] ++
  [0xd807aa98#32, 0x12835b01#32, 0x243185be#32, 0x550c7dc3#32, 0x72be5d74#32, 0x80deb1fe#32, 0x9bdc06a7#32, 0xc19bf174#32] ++
  [0xe49b69c1#32, 0xefbe4786#32, 0x0fc19dc6#32, 0x240ca1cc#32, 0x2de92c6f#32, 0x4a7484aa#32, 0x5cb0a9dc#32, 0x76f988da#32] ++
  [0x983e5152#32, 0xa831c66d#32, 0xb00327c8#32, 0xbf597fc7#32, 0xc6e00bf3#32, 0xd5a79147#32, 0x06ca6351#32, 0x14292967#32] ++
  [0x27b70a85#32, 0x2e1b2138#32, 0x4d2c6dfc#32, 0x53380d13#32, 0x650a7354#32, 0x766a0abb#32, 0x81c2c92e#32, 0x92722c85#32] ++
  [0xa2bfe8a1#32, 0xa81a664b#32, 0xc24b8b70#32, 0xc76c51a3#32, 0xd192e819#32, 0xd6990624#32, 0xf40e3585#32, 0x106aa070#32] ++
  [0x19a4c116#32, 0x1e376c08#32, 0x2748774c#32, 0x34b0bcb5#32, 0x391c0cb3#32, 0x4ed8aa4a#32, 0x5b9cca4f#32, 0x682e6ff3#32] ++
  [0x748f82ee#32, 0x78a5636f#32, 0x84c87814#32, 0x8cc70208#32, 0x90befffa#32, 0xa4506ceb#32, 0xbef9a3f7#32, 0xc67178f2#32]

/-- The initial hash value H^(0)_0 .. H^(0)_7 (R89). -/
def initialHash : Vector Word 8 :=
  #v[0x6a09e667#32, 0xbb67ae85#32, 0x3c6ef372#32, 0xa54ff53a#32, 0x510e527f#32, 0x9b05688c#32, 0x1f83d9ab#32, 0x5be0cd19#32]

/-- The length in bytes of a block (R90). -/
def shaBlockBytes : Nat := 64

/-- z of R90: the least non-negative integer with `(n + 1 + z + 8) mod 64 = 0`. -/
def shaZeroBytes (n : Nat) : Nat := (shaBlockBytes - (n + 9) % shaBlockBytes) % shaBlockBytes

/-- The message length in bits as eight bytes, big-endian (R90). -/
def shaLengthBytes (n : Nat) : List Byte :=
  wordBytes (BitVec.ofNat 32 (8 * n / 2 ^ 32)) ++ wordBytes (BitVec.ofNat 32 (8 * n))

/-- `m' = m ‖ 0x80 ‖ 0x00^z ‖ len64` (R90). -/
def shaPad (m : List Byte) : List Byte :=
  m ++ [0x80#8] ++ List.replicate (shaZeroBytes m.length) 0#8 ++ shaLengthBytes m.length

/-- The words M_0 .. M_15 of block j of the padded message, counted from 0, each big-endian (R91, R86). -/
def shaBlockWords (padded : List Byte) (j : Nat) : List Word :=
  (List.range 16).map fun t => packWord padded (16 * j + t)

/-- One more word of the message schedule, which is held newest first: σ1(W_{t−2}) + W_{t−7} + σ0(W_{t−15}) + W_{t−16}
(R92). -/
def nextScheduleWord (ws : List Word) : Word :=
  smallSigma1 (ws.getD 1 0#32) + ws.getD 6 0#32 + smallSigma0 (ws.getD 14 0#32) + ws.getD 15 0#32

/-- n more words of the message schedule, held newest first (R92). -/
def extendSchedule : Nat → List Word → List Word
  | 0, ws => ws
  | n + 1, ws => extendSchedule n (nextScheduleWord ws :: ws)

/-- The message schedule W_0 .. W_63 of a block (R92). -/
def messageSchedule (block : List Word) : List Word := (extendSchedule 48 block.reverse).reverse

/-- The working variables a..h of the compression (R93). They live within one step and are no state (10_state.md R42). -/
structure Working where
  a : Word
  b : Word
  c : Word
  d : Word
  e : Word
  f : Word
  g : Word
  h : Word
  deriving DecidableEq, Repr

/-- T1 of a round with round constant k and schedule word w (R93). -/
def roundT1 (x : Working) (k w : Word) : Word := x.h + bigSigma1 x.e + shaCh x.e x.f x.g + k + w

/-- T2 of a round (R93). -/
def roundT2 (x : Working) : Word := bigSigma0 x.a + shaMaj x.a x.b x.c

/-- One round: the simultaneous assignment of R93. -/
def shaRound (x : Working) (k w : Word) : Working where
  a := roundT1 x k w + roundT2 x
  b := x.a
  c := x.b
  d := x.c
  e := x.d + roundT1 x k w
  f := x.e
  g := x.f
  h := x.g

/-- The rounds, over the constants and schedule words in order (R93). -/
def shaRounds : List (Word × Word) → Working → Working
  | [], x => x
  | (k, w) :: rest, x => shaRounds rest (shaRound x k w)

/-- Compression of a block from the hash value H (R93). -/
def compress (hash : Vector Word 8) (block : List Word) : Vector Word 8 :=
  let start : Working := ⟨hash[0], hash[1], hash[2], hash[3], hash[4], hash[5], hash[6], hash[7]⟩
  let x := shaRounds (roundConstants.zip (messageSchedule block)) start
  #v[x.a + hash[0], x.b + hash[1], x.c + hash[2], x.d + hash[3],
     x.e + hash[4], x.f + hash[5], x.g + hash[6], x.h + hash[7]]

/-- The final hash value H^(N)_0 .. H^(N)_7 of a message (R90 to R93). -/
def sha256Words (m : List Byte) : Vector Word 8 :=
  let padded := shaPad m
  (List.range (padded.length / shaBlockBytes)).foldl (fun hash j => compress hash (shaBlockWords padded j)) initialHash

/-- `SHA256(m)`, the 32-byte digest (R94). -/
def sha256 (m : List Byte) : List Byte := unpackBytes (sha256Words m)

/-- `csum(CS, D) = D[0] >> (8 − CS)` (R96). -/
def csum (cs : BitVec 4) (d : List Byte) : BitVec 8 := d.getD 0 0#8 >>> (8 - cs.toNat)

/-- The digest of the entropy in the bit buffer: D of R97 and R98. -/
def entropyDigest (cs : BitVec 4) (b : BitBuffer) : List Byte := sha256 (entropyBytes cs b)

/-- The recomputed checksum of the entropy in the bit buffer: c of R97 and R98. -/
def entropyChecksum (cs : BitVec 4) (b : BitBuffer) : BitVec 8 := csum cs (entropyDigest cs b)

end Sys2Proof.Machine
end

