-- ==== Sys2Proof/Machine/Checksum.lean ====
section
/-! DEFINITION. The checksum commands, `CHECKSUM` and `VERIFY` (41_checksum.md R97, R98). -/

namespace Sys2Proof.Machine

/-- `CHECKSUM` up to its end (41_checksum.md R97). -/
def checksumEffect (s : State) : State × Result :=
  if validCs s.ctrlCs then
    let c := entropyChecksum s.ctrlCs s.buf
    ({ storeDigest s.ctrlCs (entropyDigest s.ctrlCs s.buf) c s with buf := putChecksumBits s.ctrlCs c s.buf }, .ok)
  else (s, .error .invalidStrength)

/-- `CHECKSUM`: digest the entropy and append the checksum bits (41_checksum.md R97). -/
def execChecksum (s : State) : Host.Outcome State Fault Refusal := endCommand (checksumEffect s)

/-- `VERIFY` up to its end (41_checksum.md R98). -/
def verifyEffect (s : State) : State × Result :=
  if validCs s.ctrlCs then
    if entropyChecksum s.ctrlCs s.buf = checksumBits s.ctrlCs s.buf then
      (storeDigest s.ctrlCs (entropyDigest s.ctrlCs s.buf) (entropyChecksum s.ctrlCs s.buf) s, .ok)
    else (clearBuffer s, .error .checksumMismatch)
  else (s, .error .invalidWordCount)

/-- `VERIFY`: recompute the checksum of the entropy and compare it with the supplied bits; a mismatch wipes (41_checksum.md
R98). -/
def execVerify (s : State) : Host.Outcome State Fault Refusal := endCommand (verifyEffect s)

end Sys2Proof.Machine
end

