-- ==== Sys2Proof/Machine/Codec.lean ====
section
/-! DEFINITION. The mnemonic codec: `EXTRACT`, `BEGIN` and `PACK` (42_codec.md R101 to R103). -/

namespace Sys2Proof.Machine

/-- `EXTRACT` up to its end, its checks in the order of 60_exceptions.md R123 (42_codec.md R101). -/
def extractEffect (k : BitVec 5) (s : State) : State × Result :=
  if validCs s.ctrlCs then
    if s.ckv then
      if k.toNat < wordCount s.ctrlCs then ({ s with indexIdx := group s.buf k.toNat }, .ok)
      else (s, .error .indexRange)
    else (s, .error .notReady)
  else (s, .error .invalidStrength)

/-- `EXTRACT k`: read word index k of an encoded bit buffer (42_codec.md R101). -/
def execExtract (k : BitVec 5) (s : State) : Host.Outcome State Fault Refusal := endCommand (extractEffect k s)

/-- `BEGIN` up to its end (42_codec.md R102). -/
def beginEffect (n : BitVec 5) (s : State) : State × Result :=
  if legalWordCount n then ({ clearBuffer s with ctrlCs := BitVec.ofNat 4 (n.toNat / 3) }, .ok)
  else (s, .error .invalidWordCount)

/-- `BEGIN n`: start a decode of n words (42_codec.md R102). -/
def execBegin (n : BitVec 5) (s : State) : Host.Outcome State Fault Refusal := endCommand (beginEffect n s)

/-- `PACK` up to its end, its checks in the order of 60_exceptions.md R123 (42_codec.md R103). -/
def packEffect (k : BitVec 5) (i : WordIndex) (s : State) : State × Result :=
  if validCs s.ctrlCs then
    if k.toNat < wordCount s.ctrlCs then ({ s with buf := putGroup k.toNat i s.buf, ckv := false }, .ok)
    else (s, .error .indexRange)
  else (s, .error .invalidWordCount)

/-- `PACK k, i`: write word index i into group k of the bit buffer (42_codec.md R103). -/
def execPack (k : BitVec 5) (i : WordIndex) (s : State) : Host.Outcome State Fault Refusal :=
  endCommand (packEffect k i s)

end Sys2Proof.Machine
end

