-- ==== Sys2Proof/Machine/Secure.lean ====
section
/-! DEFINITION. `WIPE` and `NOP` (44_secure.md R114, R115). -/

namespace Sys2Proof.Machine

/-- `WIPE`: zero every secret and working register (44_secure.md R114). -/
def execWipe (s : State) : Host.Outcome State Fault Refusal := endCommand (wipeRegisters s, .ok)

/-- `NOP`: complete with no effect (44_secure.md R115). -/
def execNop (s : State) : Host.Outcome State Fault Refusal := endCommand (s, .ok)

end Sys2Proof.Machine
end

