-- ==== Sys2Proof/Machine/Wordlist.lean ====
section
/-! DEFINITION. The wordlist commands: `WORD_AT` (ROM) and `INDEX_OF` (CAM) (43_wordlist.md R108, R110). -/

namespace Sys2Proof.Machine

/-- `WORD_AT` up to its end (43_wordlist.md R108). -/
def wordAtEffect (i : WordIndex) (s : State) : State × Result :=
  if Config.langSupported s.ctrlLang then (storeWord (Config.rom s.ctrlLang i) s, .ok)
  else (s, .error .unsupportedLanguage)

/-- `WORD_AT i`: look up word i of the active wordlist (43_wordlist.md R108). -/
def execWordAt (i : WordIndex) (s : State) : Host.Outcome State Fault Refusal := endCommand (wordAtEffect i s)

/-- `INDEX_OF` up to its end, its checks in the order of 60_exceptions.md R123 (43_wordlist.md R110). The position tag that
`finish` records is the operand, which is `CMDQ`'s field `K` (log 10, DEDUCED). -/
def indexOfEffect (p : BitVec 5) (s : State) : State × Result :=
  if Config.langSupported s.ctrlLang then
    match matchingIndex s.ctrlLang s with
    | some i => ({ s with indexIdx := i, found := true }, .ok)
    | none => ({ s with found := false }, .error (.unknownWord p))
  else ({ s with found := false }, .error .unsupportedLanguage)

/-- `INDEX_OF p`: search the active wordlist for the input word (43_wordlist.md R110). -/
def execIndexOf (p : BitVec 5) (s : State) : Host.Outcome State Fault Refusal := endCommand (indexOfEffect p s)

end Sys2Proof.Machine
end

