-- ==== Sys2Proof/Machine/Dispatch.lean ====
section
/-! DEFINITION. One arm per command (30_encoding.md R64). -/

namespace Sys2Proof.Machine

def exec (i : Instr) (s : State) : Host.Outcome State Fault Refusal :=
  match i with
  | .nop => Sys2Proof.Machine.execNop s
  | .checksum => Sys2Proof.Machine.execChecksum s
  | .extract k => Sys2Proof.Machine.execExtract k s
  | .wordAt idx => Sys2Proof.Machine.execWordAt idx s
  | .indexOf p => Sys2Proof.Machine.execIndexOf p s
  | .begin n => Sys2Proof.Machine.execBegin n s
  | .pack k idx => Sys2Proof.Machine.execPack k idx s
  | .verify => Sys2Proof.Machine.execVerify s
  | .wipe => Sys2Proof.Machine.execWipe s

end Sys2Proof.Machine
end

