-- ==== Sys2Proof/Machine/Engine.lean ====
section
/-! DEFINITION. The engine's one step, `perform` (40_lifecycle.md R77). -/

namespace Sys2Proof.Machine

/-- Performing a word: its command, or `IllegalCommand` with no other change (40_lifecycle.md R77, 30_encoding.md R66). -/
def performWord (w : Word) (s : State) : Host.Outcome State Fault Refusal :=
  match decode w with
  | .ok i => exec i s
  | .error _ => endCommand (s, .error .illegalCommand)

/-- `perform()`: the engine performs the word in `CMDQ` (40_lifecycle.md R77). -/
def perform (s : State) : Host.Outcome State Fault Refusal :=
  match s.cmdq with
  | some w => performWord w s
  | none => .refused .noCommandLatched

/-- The engine moves next: its step is enabled, "exactly when `STATUS.BUSY = 1`", and either the latency of the command in
flight has passed or the host has no step to take (40_lifecycle.md R77, R83; log 2, DESIGN CHOICE). -/
def engineMovesNext (s : State) : Bool := s.busy && (s.delay == 0 || s.script.isEmpty)

end Sys2Proof.Machine
end

