-- ==== Sys2Proof/Machine/Bus.lean ====
section
/-! DEFINITION. The register window: which register an offset addresses (10_state.md R22), and the effect of a 32-bit host
read and write on it (40_lifecycle.md R73, R74, R78, R79). -/

namespace Sys2Proof.Machine

/-- The registers of the window (10_state.md R22). -/
inductive Reg where
  | id
  | ctrl
  | status
  | cmd
  | index
  | cksum
  | errinfo
  | langs
  | winLen
  | win (i : Fin 8)
  | woutLen
  | wout (i : Fin 8)
  | buf (i : Fin 8)
  | buf8
  | dig (i : Fin 8)
  | reserved
  deriving DecidableEq, Repr

/-- The register in slot n of the window, for n in 0..63 (10_state.md R22). -/
def regAtSlot (n : Nat) : Reg :=
  if n = 0 then .id
  else if n = 1 then .ctrl
  else if n = 2 then .status
  else if n = 3 then .cmd
  else if n = 4 then .index
  else if n = 5 then .cksum
  else if n = 6 then .errinfo
  else if n = 7 then .langs
  else if n = 8 then .winLen
  else if n ≤ 16 then .win (Fin.ofNat 8 (n - 9))
  else if n = 17 then .woutLen
  else if n ≤ 25 then .wout (Fin.ofNat 8 (n - 18))
  else if n ≤ 31 then .reserved
  else if n ≤ 39 then .buf (Fin.ofNat 8 (n - 32))
  else if n = 40 then .buf8
  else if n ≤ 47 then .reserved
  else if n ≤ 55 then .dig (Fin.ofNat 8 (n - 48))
  else .reserved

/-- "Register slot `off div 4` is addressed" (20_memory.md R49). -/
def regAt (off : Offset) : Reg := regAtSlot (off.toNat / 4)

/-- The offset of a register; of the reserved offsets, the first (10_state.md R22). -/
def regOffset : Reg → Offset
  | .id => 0x00#8
  | .ctrl => 0x04#8
  | .status => 0x08#8
  | .cmd => 0x0C#8
  | .index => 0x10#8
  | .cksum => 0x14#8
  | .errinfo => 0x18#8
  | .langs => 0x1C#8
  | .winLen => 0x20#8
  | .win i => BitVec.ofNat 8 (0x24 + 4 * i.val)
  | .woutLen => 0x44#8
  | .wout i => BitVec.ofNat 8 (0x48 + 4 * i.val)
  | .buf i => BitVec.ofNat 8 (0x80 + 4 * i.val)
  | .buf8 => 0xA0#8
  | .dig i => BitVec.ofNat 8 (0xC0 + 4 * i.val)
  | .reserved => 0x68#8

/-- The part identifier, "S3D1" in ASCII (10_state.md R24). -/
def partId : Word := 0x53334431#32

/-- A register's value, built from its fields; reserved bits, reserved offsets and `CMD` read as 0 (40_lifecycle.md R73,
10_state.md R23 to R38). -/
def readReg (r : Reg) (s : State) : Word :=
  match r with
  | .id => partId
  | .ctrl => 0#24 ++ s.ctrlLang ++ s.ctrlCs
  | .status => statusWord s
  | .cmd => 0#32
  | .index => s.indexIdx.setWidth 32
  | .cksum => 0#20 ++ s.cksumLen ++ s.cksumVal
  | .errinfo => s.errPos.setWidth 32
  | .langs => Config.langSet.setWidth 32
  | .winLen => s.winLen.setWidth 32
  | .win i => s.win[i]
  | .woutLen => s.woutLen.setWidth 32
  | .wout i => s.wout[i]
  | .buf i => bufReg s.buf i.val
  | .buf8 => bufReg8 s.buf
  | .dig i => s.dig[i]
  | .reserved => 0#32

/-- The registers whose reads return their values even while busy (40_lifecycle.md R78). -/
def readableWhileBusy : Reg → Bool
  | .id | .status | .langs | .cmd | .reserved => true
  | .ctrl | .index | .cksum | .errinfo | .winLen | .win _ | .woutLen | .wout _ | .buf _ | .buf8 | .dig _ => false

/-- A read of register r returns an unspecified value, a draw: it is busy, and r is not readable while busy
(40_lifecycle.md R78; log 3, DESIGN CHOICE). -/
def readIsDraw (r : Reg) (s : State) : Bool := s.busy && !readableWhileBusy r

/-- The value `BusRead(off)` returns (40_lifecycle.md R73, R78). -/
def busReadValue (off : Offset) (s : State) : Word :=
  if readIsDraw (regAt off) s then Config.busyRead s.draws else readReg (regAt off) s

/-- The effect of an accepted write of v to register r (40_lifecycle.md R74). Read-only registers and reserved offsets
ignore it. -/
def writeReg (r : Reg) (v : Word) (s : State) : State :=
  match r with
  | .ctrl =>
    { s with
      ctrlCs := v.extractLsb' 0 4
      ctrlLang := v.extractLsb' 4 4
      ckv := s.ckv && v.extractLsb' 0 4 == s.ctrlCs }
  | .status => { s with ovr := s.ovr && !v.getLsbD 5 }
  | .cmd => issue v s
  | .winLen => { s with winLen := v.extractLsb' 0 6 }
  | .win i => { s with win := s.win.set i.val v i.isLt }
  | .buf i => { s with buf := streamPut s.buf (32 * i.val) v, ckv := false }
  | .buf8 => { s with buf := streamPut s.buf 256 (v.extractLsb' 24 8), ckv := false }
  | .id | .index | .cksum | .errinfo | .langs | .woutLen | .wout _ | .dig _ | .reserved => s

/-- `BusWrite(off, v)`: while busy, every write but one to `STATUS` is dropped and sets `OVR` (40_lifecycle.md R74, R79). -/
def busWrite (off : Offset) (v : Word) (s : State) : State :=
  if s.busy && regAt off != .status then { s with ovr := true } else writeReg (regAt off) v s

/-! ## Which accesses the block accepts (20_memory.md R49 to R51) -/

/-- Address decoding: the offset that bus address a addresses, when a is in the window (20_memory.md R49; log 6, DESIGN CHOICE). -/
def windowOffset (a : Nat) : Option Offset :=
  if Config.base ≤ a ∧ a < Config.base + 0x100 then some (BitVec.ofNat 8 (a - Config.base)) else none

/-- The offset an access's target names. -/
def targetOffset : Target → Option Offset
  | .offset off => some off
  | .busAddr a => windowOffset a

/-- The offset of an access the block accepts, or the stop: reset asserted (70_reset_and_hazards.md R139), outside the
window (20_memory.md R49), a width other than 32 bits (R50), a misaligned offset (R51). The checks' order is log 9, DEDUCED. -/
def acceptAccess (t : Target) (w : Width) (s : State) : Host.Outcome Offset Fault Refusal :=
  if s.resetLine then .refused .accessDuringReset
  else
    match targetOffset t with
    | none => .refused .outsideWindow
    | some off =>
      if w = .w32 then
        if off.toNat % 4 = 0 then .next off else .fault .busErrorAlignment
      else .fault .busErrorWidth

end Sys2Proof.Machine
end

