-- ==== Sys2Proof/Machine/HostAgent.lean ====
section
/-! DEFINITION. The host's step: it takes the next operation of its script (00_scope.md R10, 40_lifecycle.md R72). -/

namespace Sys2Proof.Machine

/-- A host step passes: while a command is in flight, one fewer may pass before it is performed (40_lifecycle.md R83;
log 2, DESIGN CHOICE). -/
def elapse (s : State) : State := { s with delay := if s.busy then s.delay - 1 else s.delay }

/-- The value a read returned is recorded as the host's; a draw is used up (40_lifecycle.md R78; logs 1, 3, DESIGN CHOICE). -/
def recordRead (off : Offset) (expected : Option Word) (s : State) : State :=
  { s with
    responses := s.responses ++ [⟨off, busReadValue off s, expected⟩]
    draws := if readIsDraw (regAt off) s then s.draws + 1 else s.draws }

/-- The state without the first operation of the script. -/
def popScript (s : State) : State := { s with script := s.script.tail }

/-- One read of `STATUS` by `poll`: the operation is done when bit 0 of the value read is 0 (30_encoding.md R70). -/
def pollOnce (off : Offset) (s : State) : State :=
  { elapse (recordRead off none s) with
    script := if (busReadValue off s).getLsbD 0 then s.script else s.script.tail }

/-- The effect of one host operation, the first of the script, on a state that holds it (40_lifecycle.md R72 to R79;
70_reset_and_hazards.md R134, R139). A stop takes no effect. -/
def hostStep (op : HostOp) (s : State) : Host.Outcome State Fault Refusal :=
  match op with
  | .read t w expected =>
    match acceptAccess t w s with
    | .next off => .next (popScript (elapse (recordRead off expected s)))
    | .fault f => .fault f
    | .refused r => .refused r
  | .write t w v =>
    match acceptAccess t w s with
    | .next off => .next (popScript (busWrite off v (elapse s)))
    | .fault f => .fault f
    | .refused r => .refused r
  | .poll =>
    match acceptAccess (.offset (regOffset .status)) .w32 s with
    | .next off => .next (pollOnce off s)
    | .fault f => .fault f
    | .refused r => .refused r
  | .assertReset => .next (popScript { resetBlock s with resetLine := true })
  | .releaseReset => .next (popScript { s with resetLine := false })

end Sys2Proof.Machine
end

