-- ==== Sys2Proof/Machine/Step.lean ====
section
/-! DEFINITION. One step of the machine: the engine's or the host's, atomic, never one inside the other (00_scope.md R10,
20_memory.md R57, 40_lifecycle.md R77). -/

namespace Sys2Proof.Machine

/-- One step. With nothing in flight and nothing left of the host's program the block is idle and "all state is kept"
(60_exceptions.md R133; log 13, DEDUCED). -/
def step (s : State) : Host.Outcome State Fault Refusal :=
  if engineMovesNext s then perform s
  else
    match s.script with
    | op :: _ => hostStep op s
    | [] => .next s

/-- The state in which the engine's next step performs the given word: the word latched as an accepted write to `CMD`
latches it (40_lifecycle.md R76), with no host step before it is performed (log 15, DESIGN CHOICE). -/
def State.withFetchWord (s : State) (nbits w : Nat) : State :=
  { latch (BitVec.ofNat 32 (w % 2 ^ nbits)) s with delay := 0 }

end Sys2Proof.Machine
end

