-- ==== Sys2Proof/Machine/Script.lean ====
section
/-! DEFINITION. The host script notation's meaning: the expansion of each statement and pseudo-instruction into host
operations (30_encoding.md R69, R70), and loading a program. -/

namespace Sys2Proof.Machine

/-- `wr REG, v` = `BusWrite(off(REG), v)` (30_encoding.md R69). -/
def opWrite (off : Offset) (v : Word) : HostOp := .write (.offset off) .w32 v

/-- `wr CMD, w ; poll`: how every command pseudo-instruction expands (30_encoding.md R70). -/
def opCommand (w : Word) : List HostOp := [opWrite (regOffset .cmd) w, .poll]

/-- The operand n of a command pseudo-instruction at its place in the word: `n << lo` (30_encoding.md R70). -/
def fieldAt (lo n : Nat) : Word := BitVec.ofNat 32 n <<< lo

/-- The expansion of a statement (30_encoding.md R69, R70). -/
def expand : Stmt → List HostOp
  | .wr off v => [opWrite off v]
  | .rd off => [.read (.offset off) .w32 none]
  | .rdExpect off v => [.read (.offset off) .w32 (some v)]
  | .poll => [.poll]
  | .nop => opCommand 0x00000000#32
  | .checksum => opCommand 0x00000001#32
  | .extract k => opCommand (0x00000002#32 ||| fieldAt 8 k)
  | .wordAt i => opCommand (0x00000003#32 ||| fieldAt 16 i)
  | .indexOf p => opCommand (0x00000004#32 ||| fieldAt 8 p)
  | .begin n => opCommand (0x00000005#32 ||| fieldAt 8 n)
  | .pack k i => opCommand (0x00000006#32 ||| fieldAt 8 k ||| fieldAt 16 i)
  | .verify => opCommand 0x00000007#32
  | .wipe => opCommand 0x00000008#32
  | .setword b =>
    opWrite (regOffset .winLen) (BitVec.ofNat 32 b.length) ::
      (List.finRange 8).map fun i => opWrite (regOffset (.win i)) (packWord b i.val)
  | .setbuf vs => vs.zipIdx.map fun p => opWrite (BitVec.ofNat 8 (0x80 + 4 * p.2)) p.1

/-- A program as host operations, or none where an assembler rejects a statement (30_encoding.md R70). -/
def assembleProgram (p : List Stmt) : Option (List HostOp) :=
  if p.all Stmt.wellFormed then some (p.flatMap expand) else none

/-- The state in which the host is about to run an assembled program: the program comes from outside the machine (log 1, DESIGN CHOICE). -/
def loadProgram (ops : List HostOp) (s : State) : State := { s with script := ops }

end Sys2Proof.Machine
end

