-- ==== Sys2Proof/Safety.lean ====
section
/-! DEFINITION. What counts as a good state and a good run, in the terms the claims use. -/

namespace Sys2Proof.Safety

open Sys2Proof.Machine

/-! ## The end of a host program's run (70_reset_and_hazards.md R146) -/

/-- The value of the last read of `STATUS`, if there was one. A read of an offset that addresses the slot counts. -/
def lastStatusRead (rs : List Response) : Option Word :=
  (rs.reverse.find? fun r => regAt r.off == .status).map (·.value)

/-- The run has ended: the program's last statement has been taken, the last read of `STATUS` it made returned `BUSY = 0`,
and no command is in flight (70_reset_and_hazards.md R146; log 12, DEDUCED). A faulted run is no state, so never ended. -/
def ended (s : State) : Bool :=
  s.script.isEmpty && !s.busy && (lastStatusRead s.responses).any fun v => !v.getLsbD 0

/-- Every read whose value the program named returned that value (30_encoding.md R69; log 11, DESIGN CHOICE). -/
def expectationsMet (s : State) : Bool :=
  s.responses.all fun r => r.expected.all (· == r.value)

/-- The host never broke the busy hazard with a write since `OVR` was last cleared (70_reset_and_hazards.md R143). -/
def noOverrun (s : State) : Bool := !s.ovr

/-- No secret is left behind: the bit buffer, and what `WIPE` zeroes beside it, is 0 (10_state.md R40, 44_secure.md R117). -/
def wiped (s : State) : Bool :=
  s.buf == 0#264 && s.dig == Vector.replicate 8 0#32 && s.cksumVal == 0#8 && s.cksumLen == 0#4 &&
    s.indexIdx == 0#11 && s.winLen == 0#6 && s.win == Vector.replicate 8 0#32 &&
    s.woutLen == 0#6 && s.wout == Vector.replicate 8 0#32

/-! ## Invariants -/

/-- What `CKV = 1` says of the stored state (10_state.md R39). -/
structure CkvConsistent (s : State) : Prop where
  validCs : s.ckv = true → validCs s.ctrlCs = true
  cksumLen : s.ckv = true → s.cksumLen = s.ctrlCs
  digest : s.ckv = true → unpackBytes s.dig = sha256 (entropyBytes s.ctrlCs s.buf)
  cksumVal : s.ckv = true → s.cksumVal = s.dig[0].extractLsb' 24 8 >>> (8 - s.ctrlCs.toNat)
  storedBits : s.ckv = true → checksumBits s.ctrlCs s.buf = s.cksumVal

/-- The error codes a command can report (60_exceptions.md R120, R121). -/
def raisedCode (c : BitVec 4) : Bool :=
  c == 1#4 || c == 3#4 || c == 4#4 || c == 5#4 || c == 6#4 || c == 8#4 || c == 9#4 || c == 10#4

/-- What `STATUS`, `ERRINFO` and `CMDQ` say of each other: `ERR` exactly when `ECODE ≠ 0` (10_state.md R26); only the codes
that are raised (60_exceptions.md R121); while busy nothing is done or reported and a word is latched (40_lifecycle.md
R76); a recorded position stands only beside `UnknownWord` or until the next command ends (10_state.md R30). -/
structure StatusConsistent (s : State) : Prop where
  errIffCode : s.err = true ↔ s.ecode ≠ 0#4
  codeRaised : s.ecode ≠ 0#4 → raisedCode s.ecode = true
  errDone : s.err = true → s.done = true
  busyClear : s.busy = true → s.done = false ∧ s.err = false
  busyLatched : s.busy = true → s.cmdq.isSome = true
  posOnlyUnknownWord : s.errPos ≠ 0#5 → s.ecode = 5#4 ∨ s.busy = true

/-- Bytes of `WOUT` at positions ≥ `WOUT_LEN.LEN` are 0, and that length is at most 32 (10_state.md R34, R35). -/
structure WoutTailZero (s : State) : Prop where
  lenBound : s.woutLen.toNat ≤ 32
  tail : ∀ j, s.woutLen.toNat ≤ j → (unpackBytes s.wout).getD j 0#8 = 0#8

/-- While the reset input is asserted the block stands at its reset values (70_reset_and_hazards.md R134). -/
def HeldInReset (s : State) : Prop := s.resetLine = true → s = resetBlock s

/-! ## What a command reports (40_lifecycle.md R80) -/

/-- s with the report of a command that succeeded. -/
def reportOk (s : State) : State :=
  { s with busy := false, done := true, err := false, ecode := 0#4, errPos := 0#5 }

/-- s with the report of a command that failed with the given code and recorded position. -/
def reportError (code : BitVec 4) (pos : BitVec 5) (s : State) : State :=
  { s with busy := false, done := true, err := true, ecode := code, errPos := pos }

/-- m is the entropy of CS·4 bytes in the bit buffer b: bit (7 − t) of byte j is stream bit 8j + t (00_scope.md R12). -/
structure IsEntropy (cs : BitVec 4) (b : BitBuffer) (m : List Byte) : Prop where
  length : m.length = 4 * cs.toNat
  bits : ∀ j < m.length, ∀ t < 8, (m.getD j 0#8).getMsbD t = b.getMsbD (8 * j + t)

/-- The match relation of the CAM: the input word is ROM entry i of language l (43_wordlist.md R109). -/
structure EntryMatches (s : State) (l : LangCode) (i : WordIndex) : Prop where
  lenPos : 1 ≤ s.winLen.toNat
  lenMax : s.winLen.toNat ≤ 32
  sameLength : (Config.rom l i).length = s.winLen.toNat
  sameBytes : ∀ j < s.winLen.toNat, (Config.rom l i).getD j 0#8 = (unpackBytes s.win).getD j 0#8

/-! ## SHA-256 in the words of 41_checksum.md -/

/-- w is the first 32 bits of the fractional part of the e-th root of p: the constants' definition (R88, R89). -/
def IsRootFraction (e p : Nat) (w : Word) : Prop :=
  ∃ n : Nat, n ^ e ≤ p * 2 ^ (32 * e) ∧ p * 2 ^ (32 * e) < (n + 1) ^ e ∧ w = BitVec.ofNat 32 n

/-- y is x after one turn of the compression loop with K_t = k and W_t = w: T1 and T2 from the values before the turn, then
the simultaneous assignment (R87, R93). -/
def IsNextRound (k w : Word) (x y : Working) : Prop :=
  ∃ t1 t2 : Word,
    t1 = x.h + (x.e.rotateRight 6 ^^^ x.e.rotateRight 11 ^^^ x.e.rotateRight 25) +
      ((x.e &&& x.f) ^^^ (~~~x.e &&& x.g)) + k + w ∧
    t2 = (x.a.rotateRight 2 ^^^ x.a.rotateRight 13 ^^^ x.a.rotateRight 22) +
      ((x.a &&& x.b) ^^^ (x.a &&& x.c) ^^^ (x.b &&& x.c)) ∧
    y.h = x.g ∧ y.g = x.f ∧ y.f = x.e ∧ y.e = x.d + t1 ∧ y.d = x.c ∧ y.c = x.b ∧ y.b = x.a ∧ y.a = t1 + t2

/-! ## Host accesses -/

/-- The step of s with one more host operation to take first. -/
def stepWith (op : HostOp) (s : State) : Host.Outcome State Fault Refusal :=
  step { s with script := op :: s.script }

/-- `BusWrite(off, v)` as the host's next operation. -/
def hostWrite (off : Offset) (v : Word) : HostOp := .write (.offset off) .w32 v

/-- `BusRead(off)` as the host's next operation. -/
def hostRead (off : Offset) : HostOp := .read (.offset off) .w32 none

/-- An operation the block accepts while reset is not asserted, and that does not assert it: a poll, or an aligned 32-bit
access by offset. -/
def acceptedOp : HostOp → Bool
  | .read (.offset off) .w32 _ => decide (off.toNat % 4 = 0)
  | .write (.offset off) .w32 _ => decide (off.toNat % 4 = 0)
  | .poll => true
  | _ => false

/-! ## The events that set and clear `CKV` (40_lifecycle.md R81) -/

/-- The step from s is the engine's and performs command i. -/
def Performs (i : Instr) (s : State) : Prop :=
  engineMovesNext s = true ∧ ∃ w, s.cmdq = some w ∧ decode w = .ok i

/-- The step from s is the host's and takes operation op. -/
def Takes (op : HostOp) (s : State) : Prop := engineMovesNext s = false ∧ s.script.head? = some op

/-- The step from s is an accepted host write (the block is not busy) of v, by a 32-bit aligned access of any target, to
register r. -/
def WritesReg (r : Reg) (v : Word) (s : State) : Prop :=
  s.busy = false ∧ ∃ t off, Takes (.write t .w32 v) s ∧ targetOffset t = some off ∧ regAt off = r

/-- The step from s to t is one of the events that set `CKV`. -/
def CkvSetEvent (s t : State) : Prop :=
  (Performs .checksum s ∨ Performs .verify s) ∧ t.err = false

/-- The step from s to t is one of the events that clear `CKV`. -/
def CkvClearEvent (s t : State) : Prop :=
  (∃ v i, WritesReg (.buf i) v s) ∨ (∃ v, WritesReg .buf8 v s) ∨
  (∃ v, WritesReg .ctrl v s ∧ v.extractLsb' 0 4 ≠ s.ctrlCs) ∨
  (∃ n, Performs (.begin n) s ∧ t.err = false) ∨ (∃ k i, Performs (.pack k i) s ∧ t.err = false) ∨
  Performs .wipe s ∨ (Performs .verify s ∧ t.ecode = 6#4) ∨ Takes .assertReset s

/-! ## Sequences of commands -/

/-- The state after the commands, each performed to its end from where the one before it ended; none where one stops or
reports an error. -/
def runOk : List Instr → State → Option State
  | [], s => some s
  | i :: rest, s =>
    match exec i s with
    | .next t => if t.err then none else runOk rest t
    | .fault _ => none
    | .refused _ => none

/-- `EXTRACT k` for each k in turn: the successive values of `INDEX`, and the state after the last. -/
def extractAll : List (BitVec 5) → State → Option (List WordIndex × State)
  | [], s => some ([], s)
  | k :: rest, s =>
    match runOk [.extract k] s with
    | some t => (extractAll rest t).map fun p => (t.indexIdx :: p.1, p.2)
    | none => none

/-- The group numbers 0 .. NW−1 (42_codec.md R100). -/
def groupNumbers (cs : BitVec 4) : List (BitVec 5) := (List.range (wordCount cs)).map (BitVec.ofNat 5)

/-- The decode of a list of indices: `BEGIN NW`, `PACK k, i_k` for each, `VERIFY` (42_codec.md R104). -/
def decodeCommands (cs : BitVec 4) (indices : List WordIndex) : List Instr :=
  .begin (BitVec.ofNat 5 (wordCount cs)) ::
    (List.zipWith (fun k i => Instr.pack k i) (groupNumbers cs) indices ++ [.verify])

end Sys2Proof.Safety
end

