-- ==== Sys2Proof/Certificates/Slice0/Obligations.lean ====
section
/-! DEFINITION. The statements for the provers. Each docstring names the rule of spec/ it formalises. -/

open Sys2Proof Sys2Proof.Machine Sys2Proof.Safety

/-! ## Encoding (30_encoding.md) -/

/-- One word of each row of R64, and one illegal word of each kind of R66 (the words of 95_test_vectors.md V2, V4, V5, V6,
V15). -/
def Obligations.DecodesOneWordOfEachRow : Prop :=
  decode 0x00000000#32 = .ok .nop ∧ decode 0x00000001#32 = .ok .checksum ∧
  decode 0x00000B02#32 = .ok (.extract 11#5) ∧ decode 0x07FF0003#32 = .ok (.wordAt 2047#11) ∧
  decode 0x00001F04#32 = .ok (.indexOf 31#5) ∧ decode 0x00000C05#32 = .ok (.begin 12#5) ∧
  decode 0x00030B06#32 = .ok (.pack 11#5 3#11) ∧ decode 0x00000007#32 = .ok .verify ∧
  decode 0x00000008#32 = .ok .wipe ∧
  decode 0x00000009#32 = .error .unassignedOpcode ∧ decode 0x00002000#32 = .error .nonzeroUnusedField

/-- R64, R67: decoding the word of a command gives that command, with every operand at every value its field admits. -/
def Obligations.DecodeInvertsEncode : Prop :=
  ∀ i : Instr, decode (encode i) = .ok i

/-- R64, R65: a legal word is the word of the command it decodes to, so "each legal word [has] exactly one meaning" (92
D11) and no bit of it is dropped. -/
def Obligations.EncodeInvertsDecode : Prop :=
  ∀ (w : Word) (i : Instr), decode w = .ok i → encode i = w

/-- R65: a word decodes exactly when its opcode is assigned, its reserved fields are 0 and every field its command does
not use is 0. -/
def Obligations.LegalWordsAreTheWellFormedFields : Prop :=
  ∀ w : Word, (∃ i, decode w = .ok i) ↔ (fieldsOf w).wellFormed = true

/-- R67: at most one row matches a word. -/
def Obligations.AtMostOneRowMatches : Prop :=
  ∀ (w : Word), ∀ r ∈ opcodeMap, ∀ r' ∈ opcodeMap,
    w &&& r.mask = r.pattern → w &&& r'.mask = r'.pattern → r.pattern = r'.pattern

/-- R66: the legal words number 67,684. -/
def Obligations.LegalWordsNumber67684 : Prop :=
  Nat.card { w : Word // ∃ i, decode w = .ok i } = 67684

/-- R70: each command pseudo-instruction writes its command's word to `CMD` and polls, for every operand an assembler
accepts. -/
def Obligations.PseudoInstructionsWriteTheCommandWords : Prop :=
  ∀ k i : Nat, k ≤ 31 → i ≤ 2047 →
    expand .nop = [hostWrite 0x0C#8 (encode .nop), .poll] ∧
    expand .checksum = [hostWrite 0x0C#8 (encode .checksum), .poll] ∧
    expand (.extract k) = [hostWrite 0x0C#8 (encode (.extract (BitVec.ofNat 5 k))), .poll] ∧
    expand (.wordAt i) = [hostWrite 0x0C#8 (encode (.wordAt (BitVec.ofNat 11 i))), .poll] ∧
    expand (.indexOf k) = [hostWrite 0x0C#8 (encode (.indexOf (BitVec.ofNat 5 k))), .poll] ∧
    expand (.begin k) = [hostWrite 0x0C#8 (encode (.begin (BitVec.ofNat 5 k))), .poll] ∧
    expand (.pack k i) = [hostWrite 0x0C#8 (encode (.pack (BitVec.ofNat 5 k) (BitVec.ofNat 11 i))), .poll] ∧
    expand .verify = [hostWrite 0x0C#8 (encode .verify), .poll] ∧
    expand .wipe = [hostWrite 0x0C#8 (encode .wipe), .poll]

/-! ## The command lifecycle (40_lifecycle.md) -/

/-- R77 with the model's latency (log 2): when the engine's step is enabled and the latency has passed or the host has
nothing to do, and the latched word decodes to i, the machine's step is the command's meaning. Nothing is added around it:
there is no program counter (10_state.md R20). -/
def Obligations.EngineStepRunsTheDecodedCommand : Prop :=
  ∀ (s : State) (w : Word) (i : Instr), s.busy = true → s.delay = 0 ∨ s.script = [] → s.cmdq = some w →
    decode w = .ok i → step s = exec i s

/-- R66, R77: performing a word that matches no row of R64 ends with `IllegalCommand`, code 8, and changes nothing else. -/
def Obligations.IllegalWordChangesOnlyTheReport : Prop :=
  ∀ (s : State) (w : Word), s.busy = true → s.delay = 0 ∨ s.script = [] → s.cmdq = some w →
    (∀ r ∈ opcodeMap, w &&& r.mask ≠ r.pattern) → step s = .next (reportError 8#4 0#5 s)

/-- R76: an accepted write of v to `CMD` latches v and sets `BUSY`, clears `DONE`, `ERR` and `ECODE`, and changes no other
register, whatever v is. The latency drawn is the model's (log 2). -/
def Obligations.AcceptedCommandWriteLatches : Prop :=
  ∀ (s : State) (v : Word), s.busy = false → s.resetLine = false →
    ∃ d ds n, stepWith (hostWrite 0x0C#8 v) s =
      .next { s with
        cmdq := some v, busy := true, done := false, err := false, ecode := 0#4, delay := d, delays := ds, draws := n }

/-- R79: while busy, a write to `STATUS` only clears `OVR` when bit 5 is 1, and a write to any other offset, `CMD` among
them, changes no register but `OVR <- 1`. Beside the registers it says that one host step of the command's latency has
passed (`delay`): the model's own count-down, no rule of the spec (log 2, DESIGN CHOICE). -/
def Obligations.WritesWhileBusyAreDropped : Prop :=
  ∀ (s : State) (off : Offset) (v : Word), s.busy = true → s.delay ≠ 0 → s.resetLine = false → off.toNat % 4 = 0 →
    (off = 0x08#8 → stepWith (hostWrite off v) s =
      .next { s with ovr := if v.getLsbD 5 then false else s.ovr, delay := s.delay - 1 }) ∧
    (off ≠ 0x08#8 → stepWith (hostWrite off v) s = .next { s with ovr := true, delay := s.delay - 1 })

/-- R74: the effect of an accepted write, by offset: the register's stored bits, `CKV` where `CS` changes or the buffer is
written, the issue of R76 for `CMD` (the latency drawn is the model's, log 2), and nothing else. -/
def Obligations.AcceptedWriteHasItsEffect : Prop :=
  ∀ (s : State) (v : Word), s.busy = false → s.resetLine = false →
    stepWith (hostWrite 0x04#8 v) s =
      .next { s with
        ctrlCs := v.extractLsb' 0 4, ctrlLang := v.extractLsb' 4 4,
        ckv := if v.extractLsb' 0 4 = s.ctrlCs then s.ckv else false } ∧
    stepWith (hostWrite 0x08#8 v) s = .next { s with ovr := if v.getLsbD 5 then false else s.ovr } ∧
    (∃ d ds n, stepWith (hostWrite 0x0C#8 v) s =
      .next { s with
        cmdq := some v, busy := true, done := false, err := false, ecode := 0#4, delay := d, delays := ds, draws := n }) ∧
    stepWith (hostWrite 0x20#8 v) s = .next { s with winLen := v.extractLsb' 0 6 } ∧
    (∀ i : Fin 8, stepWith (hostWrite (BitVec.ofNat 8 (0x24 + 4 * i.val)) v) s =
      .next { s with win := s.win.set i.val v i.isLt }) ∧
    (∀ i : Fin 8, ∃ b : BitBuffer, stepWith (hostWrite (BitVec.ofNat 8 (0x80 + 4 * i.val)) v) s =
        .next { s with buf := b, ckv := false } ∧
      ∀ j < 264, b.getMsbD j =
        if 32 * i.val ≤ j ∧ j < 32 * i.val + 32 then v.getMsbD (j - 32 * i.val) else s.buf.getMsbD j) ∧
    (∃ b : BitBuffer, stepWith (hostWrite 0xA0#8 v) s = .next { s with buf := b, ckv := false } ∧
      ∀ j < 264, b.getMsbD j = if 256 ≤ j then v.getMsbD (j - 256) else s.buf.getMsbD j) ∧
    (∀ off : Offset, off.toNat % 4 = 0 →
      off.toNat = 0x00 ∨ (0x10 ≤ off.toNat ∧ off.toNat ≤ 0x1C) ∨ (0x44 ≤ off.toNat ∧ off.toNat ≤ 0x7C) ∨
        0xA4 ≤ off.toNat → stepWith (hostWrite off v) s = .next s)

/-- R73 with 10_state.md R22 to R38: what a read of each offset returns while not busy, reserved bits, reserved offsets
and `CMD` 0. -/
def Obligations.IdleReadReturnsTheRegister : Prop :=
  ∀ s : State, s.busy = false →
    busReadValue 0x00#8 s = 0x53334431#32 ∧
    busReadValue 0x04#8 s = (s.ctrlLang.setWidth 32 <<< 4 ||| s.ctrlCs.setWidth 32) ∧
    busReadValue 0x08#8 s =
      (s.ecode.setWidth 32 <<< 8 ||| (BitVec.ofBool s.ovr).setWidth 32 <<< 5 |||
        (BitVec.ofBool s.found).setWidth 32 <<< 4 ||| (BitVec.ofBool s.ckv).setWidth 32 <<< 3 |||
        (BitVec.ofBool s.err).setWidth 32 <<< 2 ||| (BitVec.ofBool s.done).setWidth 32 <<< 1) ∧
    busReadValue 0x0C#8 s = 0#32 ∧
    busReadValue 0x10#8 s = s.indexIdx.setWidth 32 ∧
    busReadValue 0x14#8 s = (s.cksumLen.setWidth 32 <<< 8 ||| s.cksumVal.setWidth 32) ∧
    busReadValue 0x18#8 s = s.errPos.setWidth 32 ∧
    busReadValue 0x1C#8 s = Config.langSet.setWidth 32 ∧
    busReadValue 0x20#8 s = s.winLen.setWidth 32 ∧
    (∀ i : Fin 8, busReadValue (BitVec.ofNat 8 (0x24 + 4 * i.val)) s = s.win[i]) ∧
    busReadValue 0x44#8 s = s.woutLen.setWidth 32 ∧
    (∀ i : Fin 8, busReadValue (BitVec.ofNat 8 (0x48 + 4 * i.val)) s = s.wout[i]) ∧
    (∀ i : Fin 8, ∀ t < 32,
      (busReadValue (BitVec.ofNat 8 (0x80 + 4 * i.val)) s).getMsbD t = s.buf.getMsbD (32 * i.val + t)) ∧
    (∀ t < 32, (busReadValue 0xA0#8 s).getMsbD t = (decide (t < 8) && s.buf.getMsbD (256 + t))) ∧
    (∀ i : Fin 8, busReadValue (BitVec.ofNat 8 (0xC0 + 4 * i.val)) s = s.dig[i]) ∧
    (∀ off : Offset, (0x68 ≤ off.toNat ∧ off.toNat ≤ 0x7F) ∨ (0xA4 ≤ off.toNat ∧ off.toNat ≤ 0xBF) ∨ 0xE0 ≤ off.toNat →
      busReadValue off s = 0#32)

/-- R54, R73, R78: a host read changes no register of the block, busy or not: it only appends its value to what the host
has read, and passes as a host step. A draw is used up exactly when the value is unspecified. -/
def Obligations.ReadChangesNoRegister : Prop :=
  ∀ (s : State) (off : Offset), s.resetLine = false → off.toNat % 4 = 0 → s.busy = false ∨ s.delay ≠ 0 →
    stepWith (hostRead off) s =
      .next { s with
        responses := s.responses ++ [⟨off, busReadValue off s, none⟩]
        draws := if readIsDraw (regAt off) s then s.draws + 1 else s.draws
        delay := if s.busy then s.delay - 1 else s.delay }

/-- R78: while busy, `ID`, `STATUS`, `LANGS`, `CMD` and the reserved offsets read as when not busy, and a read of any other
offset returns the next free draw, about which nothing is assumed (log 3). -/
def Obligations.BusyReadIsADraw : Prop :=
  ∀ (s : State) (off : Offset), s.busy = true →
    (off.toNat / 4 ∈ [0, 2, 3, 7, 26, 27, 28, 29, 30, 31, 41, 42, 43, 44, 45, 46, 47, 56, 57, 58, 59, 60, 61, 62, 63] →
      busReadValue off s = readReg (regAt off) s ∧ readIsDraw (regAt off) s = false) ∧
    (off.toNat / 4 ∉ [0, 2, 3, 7, 26, 27, 28, 29, 30, 31, 41, 42, 43, 44, 45, 46, 47, 56, 57, 58, 59, 60, 61, 62, 63] →
      busReadValue off s = Config.busyRead s.draws ∧ readIsDraw (regAt off) s = true)

/-- 20_memory.md R50, R51: while reset is not asserted (log 8) and the host moves next (log 2), a host access of a width
other than 32 bits, or a misaligned one of 32 bits, is a bus error: the step faults the host's program and answers no next
state, so there is none in which a register could have changed. That the fault has no next state, and that the width is
checked before the alignment, is the model's reading (log 9, DEDUCED). -/
def Obligations.NarrowOrMisalignedAccessIsABusError : Prop :=
  ∀ (s : State) (off : Offset) (w : Width) (v : Word) (e : Option Word),
    s.resetLine = false → s.busy = false ∨ s.delay ≠ 0 →
    (w ≠ .w32 → stepWith (.write (.offset off) w v) s = .fault .busErrorWidth ∧
      stepWith (.read (.offset off) w e) s = .fault .busErrorWidth) ∧
    (off.toNat % 4 ≠ 0 → stepWith (.write (.offset off) .w32 v) s = .fault .busErrorAlignment ∧
      stepWith (.read (.offset off) .w32 e) s = .fault .busErrorAlignment)

/-- 20_memory.md R49: bus address a reaches the SME exactly when `BASE ≤ a < BASE + 0x100`, at offset `a − BASE`; `BASE` is
a multiple of 0x100; slot `off div 4` is addressed. -/
def Obligations.AddressDecodingIsTheWindow : Prop :=
  Config.base % 0x100 = 0 ∧
  (∀ (a : Nat) (off : Offset),
    windowOffset a = some off ↔ Config.base ≤ a ∧ a < Config.base + 0x100 ∧ off.toNat = a - Config.base) ∧
  (∀ off off' : Offset, off.toNat / 4 = off'.toNat / 4 → regAt off = regAt off') ∧
  ∀ (s : State) (off : Offset) (w : Width) (v : Word) (e : Option Word), s.busy = false ∨ s.delay ≠ 0 →
    stepWith (.write (.busAddr (Config.base + off.toNat)) w v) s = stepWith (.write (.offset off) w v) s ∧
    stepWith (.read (.busAddr (Config.base + off.toNat)) w e) s = stepWith (.read (.offset off) w e) s

/-- R59, R79: while a command is in flight no host step but a reset changes the latched word or a register the command
reads. -/
def Obligations.HostStepsCannotChangeTheCommandInFlight : Prop :=
  ∀ s t : State, s.busy = true → engineMovesNext s = false → ¬ Takes .assertReset s → step s = .next t →
    t.cmdq = s.cmdq ∧ t.busy = true ∧ t.ctrlCs = s.ctrlCs ∧ t.ctrlLang = s.ctrlLang ∧ t.buf = s.buf ∧
    t.ckv = s.ckv ∧ t.win = s.win ∧ t.winLen = s.winLen

/-- R75: `OVR` is cleared by a `STATUS` write with bit 5 = 1, busy or not, and by reset, and by no other step. -/
def Obligations.OvrIsClearedOnlyByStatusWriteOrReset : Prop :=
  (∀ (s : State) (v : Word), v.getLsbD 5 = true → s.resetLine = false → s.busy = false ∨ s.delay ≠ 0 →
    ∃ t, stepWith (hostWrite 0x08#8 v) s = .next t ∧ t.ovr = false) ∧
  (∀ s : State, s.busy = false ∨ s.delay ≠ 0 → ∃ t, stepWith .assertReset s = .next t ∧ t.ovr = false) ∧
  ∀ s t : State, step s = .next t → s.ovr = true → t.ovr = false →
    Takes .assertReset s ∨
    ∃ tgt off v, Takes (.write tgt .w32 v) s ∧ targetOffset tgt = some off ∧ regAt off = .status ∧ v.getLsbD 5 = true

/-- R81: `CKV` is set by exactly the events listed as setting it, cleared by exactly the events listed as clearing it, and
changed by no other step. -/
def Obligations.CkvChangesOnlyByTheListedEvents : Prop :=
  ∀ s t : State, step s = .next t →
    (CkvSetEvent s t → t.ckv = true) ∧ (CkvClearEvent s t → t.ckv = false) ∧
    (¬ CkvSetEvent s t → ¬ CkvClearEvent s t → t.ckv = s.ckv)

/-- R83: a command in flight is performed after at most as many host steps as its latency, as long as the host's
operations are accepted accesses. The bound is the model's free latency, any natural number (log 2). -/
def Obligations.CommandInFlightIsPerformed : Prop :=
  ∀ s : State, s.busy = true → s.resetLine = false → s.script.all acceptedOp = true →
    ∃ n ≤ s.delay, ∃ t, core.run n s = .next t ∧ engineMovesNext t = true ∧ t.cmdq = s.cmdq

/-- R70, R83: from a state that is not busy, every command pseudo-instruction, `wr CMD, w ; poll`, runs to its end in a
finite number of steps, whatever the latency, and leaves what the command's meaning leaves. -/
def Obligations.CommandPseudoInstructionCompletes : Prop :=
  ∀ (s : State) (i : Instr), s.busy = false → s.resetLine = false →
    ∃ n d ds k rs v,
      exec i { s with
        cmdq := some (encode i), busy := true, done := false, err := false, ecode := 0#4,
        script := .poll :: s.script, responses := rs, delay := d, delays := ds, draws := k } = .next v ∧
      core.run n { s with script := opCommand (encode i) ++ s.script } =
        .next { v with script := s.script, responses := rs ++ [⟨0x08#8, statusWord v, none⟩] }

/-- R80, R84: every command ends: it answers a next state with `BUSY = 0` and `DONE = 1`, and changes neither `CTRL.LANG`,
`OVR`, the reset input nor anything of the host's; only `BEGIN` writes `CTRL.CS` (R25), only `WIPE` writes `WIN` and
`WIN_LEN`, only `CHECKSUM`, `VERIFY`, `BEGIN` and `WIPE` write `DIG` and `CKSUM`, and only those and `PACK` write the bit
buffer and `CKV`. That `CMDQ` keeps its word is the model's choice (log 7). -/
def Obligations.EveryCommandEnds : Prop :=
  ∀ (i : Instr) (s : State), ∃ t, exec i s = .next t ∧ t.busy = false ∧ t.done = true ∧
    (t.err = true ↔ t.ecode ≠ 0#4) ∧
    t.ctrlLang = s.ctrlLang ∧ t.ovr = s.ovr ∧ t.cmdq = s.cmdq ∧ t.resetLine = s.resetLine ∧ t.script = s.script ∧
    t.responses = s.responses ∧ t.delay = s.delay ∧ t.delays = s.delays ∧ t.draws = s.draws ∧
    ((∀ n, i ≠ .begin n) → t.ctrlCs = s.ctrlCs) ∧ (i ≠ .wipe → t.win = s.win ∧ t.winLen = s.winLen) ∧
    ((∀ j, i ≠ .wordAt j) → i ≠ .wipe → t.wout = s.wout ∧ t.woutLen = s.woutLen) ∧
    ((∀ k, i ≠ .extract k) → (∀ p, i ≠ .indexOf p) → i ≠ .wipe → t.indexIdx = s.indexIdx) ∧
    ((∀ p, i ≠ .indexOf p) → i ≠ .wipe → t.found = s.found) ∧
    (i ≠ .checksum → i ≠ .verify → (∀ n, i ≠ .begin n) → i ≠ .wipe →
      t.dig = s.dig ∧ t.cksumVal = s.cksumVal ∧ t.cksumLen = s.cksumLen ∧
      ((∀ k j, i ≠ .pack k j) → t.buf = s.buf ∧ t.ckv = s.ckv))

/-- R82: a command that fails, legal word or not, changes only what `finish` writes, `FOUND` for `INDEX_OF`, and for a
`VERIFY` that fails with `ChecksumMismatch` the automatic wipe. -/
def Obligations.FailedCommandIsAllOrNothing : Prop :=
  ∀ (w : Word) (s t : State), performWord w s = .next t → t.err = true →
    (t.ecode = 6#4 → decode w = .ok .verify ∧
      t = reportError 6#4 0#5 { s with
        buf := 0#264, dig := Vector.replicate 8 0#32, cksumVal := 0#8, cksumLen := 0#4, ckv := false }) ∧
    (t.ecode ≠ 6#4 →
      ((∃ p, decode w = .ok (.indexOf p)) → t = reportError t.ecode t.errPos { s with found := false }) ∧
      ((∀ p, decode w ≠ .ok (.indexOf p)) → t = reportError t.ecode t.errPos s))

/-- 10_state.md R30: at the end of every command, legal word or not, `ERRINFO.POS` is the word's field `K` if it failed with
`UnknownWord`, the word looked up then still in `WIN`, and 0 otherwise; bits [31:5] read 0; it is 0 at reset. -/
def Obligations.ErrinfoHoldsThePositionOfUnknownWord : Prop :=
  (∀ (w : Word) (s t : State), performWord w s = .next t →
    (t.ecode = 5#4 → t.errPos = wordK w ∧ t.win = s.win ∧ t.winLen = s.winLen) ∧ (t.ecode ≠ 5#4 → t.errPos = 0#5)) ∧
  (∀ (s : State), readReg .errinfo s = s.errPos.setWidth 32) ∧
  State.reset.errPos = 0#5

/-- 60_exceptions.md R126: an error report lasts until the next accepted write to `CMD` or a reset: no other step changes
`ERR` or `ECODE`. -/
def Obligations.ErrorReportLastsUntilTheNextCommand : Prop :=
  ∀ s t : State, StatusConsistent s → s.err = true → step s = .next t →
    (∀ v, ¬ WritesReg .cmd v s) → ¬ Takes .assertReset s → t.err = true ∧ t.ecode = s.ecode

/-! ## The checksum commands (41_checksum.md) -/

/-- R97: with a legal `CS`, `CHECKSUM` leaves the SHA-256 digest of the entropy in `DIG`, its first CS bits in `CKSUM` and
in stream bits ENT .. ENT+CS−1, every other stream bit as it was, and `CKV = 1`; otherwise it fails with `InvalidStrength`
and changes nothing else. -/
def Obligations.ChecksumResult : Prop :=
  ∀ (s : State) (m : List Byte), IsEntropy s.ctrlCs s.buf m →
    (4 ≤ s.ctrlCs.toNat ∧ s.ctrlCs.toNat ≤ 8 →
      ∃ (d : Vector Word 8) (b : BitBuffer),
        exec .checksum s = .next (reportOk { s with
          dig := d, cksumVal := (sha256 m).getD 0 0#8 >>> (8 - s.ctrlCs.toNat), cksumLen := s.ctrlCs, buf := b,
          ckv := true }) ∧
        unpackBytes d = sha256 m ∧
        ∀ j < 264, b.getMsbD j =
          if 32 * s.ctrlCs.toNat ≤ j ∧ j < 33 * s.ctrlCs.toNat then
            ((sha256 m).getD 0 0#8).getMsbD (j - 32 * s.ctrlCs.toNat)
          else s.buf.getMsbD j) ∧
    (¬ (4 ≤ s.ctrlCs.toNat ∧ s.ctrlCs.toNat ≤ 8) → exec .checksum s = .next (reportError 1#4 0#5 s))

/-- R98: with a legal `CS`, `VERIFY` compares the first CS bits of the digest with stream bits ENT .. ENT+CS−1: if they
agree it leaves digest and checksum and `CKV = 1` and keeps the buffer; if not it wipes and fails with `ChecksumMismatch`.
With an illegal `CS` it fails with `InvalidWordCount` and changes nothing else. -/
def Obligations.VerifyResult : Prop :=
  ∀ (s : State) (m : List Byte), IsEntropy s.ctrlCs s.buf m →
    (4 ≤ s.ctrlCs.toNat ∧ s.ctrlCs.toNat ≤ 8 →
      ((∀ t < s.ctrlCs.toNat, ((sha256 m).getD 0 0#8).getMsbD t = s.buf.getMsbD (32 * s.ctrlCs.toNat + t)) →
        ∃ d : Vector Word 8,
          exec .verify s = .next (reportOk { s with
            dig := d, cksumVal := (sha256 m).getD 0 0#8 >>> (8 - s.ctrlCs.toNat), cksumLen := s.ctrlCs,
            ckv := true }) ∧
          unpackBytes d = sha256 m) ∧
      (¬ (∀ t < s.ctrlCs.toNat, ((sha256 m).getD 0 0#8).getMsbD t = s.buf.getMsbD (32 * s.ctrlCs.toNat + t)) →
        exec .verify s = .next (reportError 6#4 0#5 { s with
          buf := 0#264, dig := Vector.replicate 8 0#32, cksumVal := 0#8, cksumLen := 0#4, ckv := false }))) ∧
    (¬ (4 ≤ s.ctrlCs.toNat ∧ s.ctrlCs.toNat ≤ 8) → exec .verify s = .next (reportError 4#4 0#5 s))

/-- R97: running `CHECKSUM` twice gives the same state. -/
def Obligations.ChecksumIsIdempotent : Prop :=
  ∀ s t : State, exec .checksum s = .next t → exec .checksum t = .next t

/-- R98: a buffer whose checksum bits were written by `CHECKSUM` always verifies, and `VERIFY` then changes nothing. -/
def Obligations.VerifyAcceptsWhatChecksumWrote : Prop :=
  ∀ s t : State, exec .checksum s = .next t → t.err = false → exec .verify t = .next t

/-- R98: changing checksum bits after `CHECKSUM` always makes `VERIFY` fail: any buffer that agrees on the entropy bits and
differs in a checksum bit is a `ChecksumMismatch` and is wiped. -/
def Obligations.VerifyRejectsChangedChecksumBits : Prop :=
  ∀ (s t : State) (b : BitBuffer), exec .checksum s = .next t → t.err = false →
    (∀ j < 32 * s.ctrlCs.toNat, b.getMsbD j = t.buf.getMsbD j) →
    (∃ j, 32 * s.ctrlCs.toNat ≤ j ∧ j < 33 * s.ctrlCs.toNat ∧ b.getMsbD j ≠ t.buf.getMsbD j) →
    ∃ u, exec .verify { t with buf := b } = .next u ∧ u.err = true ∧ u.ecode = 6#4 ∧ u.buf = 0#264 ∧
      u.dig = Vector.replicate 8 0#32 ∧ u.cksumVal = 0#8 ∧ u.cksumLen = 0#4 ∧ u.ckv = false

/-- R99: `CHECKSUM` and `VERIFY` are functions of `CTRL.CS` and the bit buffer alone. -/
def Obligations.ChecksumCommandsDependOnCsAndBufferOnly : Prop :=
  ∀ (i : Instr) (s s' t t' : State), i = .checksum ∨ i = .verify → s.ctrlCs = s'.ctrlCs → s.buf = s'.buf →
    exec i s = .next t → exec i s' = .next t' →
    t.err = t'.err ∧ t.ecode = t'.ecode ∧ t.buf = t'.buf ∧
    (4 ≤ s.ctrlCs.toNat ∧ s.ctrlCs.toNat ≤ 8 →
      t.dig = t'.dig ∧ t.cksumVal = t'.cksumVal ∧ t.cksumLen = t'.cksumLen ∧ t.ckv = t'.ckv)

/-- R95: for every legal `CS` the padded message is one block, whose words are `BUF[0..CS−1]`, 0x80000000, zeros and 32·CS;
only `BUF0 .. BUF[CS−1]` enter. -/
def Obligations.EngineBlockIsTheEntropyRegisters : Prop :=
  ∀ (cs : BitVec 4) (b : BitBuffer), 4 ≤ cs.toNat → cs.toNat ≤ 8 →
    (shaPad (entropyBytes cs b)).length = 64 ∧
    ∀ t < 16, (shaBlockWords (shaPad (entropyBytes cs b)) 0).getD t 0#32 =
      if t < cs.toNat then bufReg b t
      else if t = cs.toNat then 0x80000000#32
      else if t = 15 then BitVec.ofNat 32 (32 * cs.toNat)
      else 0#32

/-- R90: the padded message is `m ‖ 0x80 ‖ 0x00^z ‖ len64` for the least z that makes its length a multiple of 64, with
len64 the message length in bits as eight bytes, most significant first. -/
def Obligations.PaddingIsTheLeast : Prop :=
  ∀ m : List Byte, m.length < 2 ^ 61 → ∃ (z : Nat) (len64 : List Byte),
    shaPad m = m ++ [0x80#8] ++ List.replicate z 0#8 ++ len64 ∧
    (m.length + 1 + z + 8) % 64 = 0 ∧ (∀ z' < z, (m.length + 1 + z' + 8) % 64 ≠ 0) ∧
    len64.length = 8 ∧ len64.foldl (fun n x => 256 * n + x.toNat) 0 = 8 * m.length

/-- R87 to R94: the digest of every message. The message schedule of a block has 64 words; the first 16 are the block's, and
each later one is σ1(W_{t−2}) + W_{t−7} + σ0(W_{t−15}) + W_{t−16} (R92). Compression runs 64 turns of the loop of R93 from the
hash value and adds the result to it. The constants are the first 32 bits of the fractional parts of the cube roots of the
first 64 primes and the square roots of the first 8 (R88, R89). The blocks of the padded message, big-endian, are compressed
in order from the initial hash value (R91), and the digest is the last hash value, big-endian (R94). The spec gives SHA-256
from general knowledge (log 17). -/
def Obligations.MessageScheduleAndCompression : Prop :=
  (∀ block : List Word, block.length = 16 →
    (messageSchedule block).length = 64 ∧
    (∀ t < 16, (messageSchedule block).getD t 0#32 = block.getD t 0#32) ∧
    ∀ t, 16 ≤ t → t < 64 →
      let w := fun n => (messageSchedule block).getD n 0#32
      w t = ((w (t - 2)).rotateRight 17 ^^^ (w (t - 2)).rotateRight 19 ^^^ w (t - 2) >>> 10) + w (t - 7) +
        ((w (t - 15)).rotateRight 7 ^^^ (w (t - 15)).rotateRight 18 ^^^ w (t - 15) >>> 3) + w (t - 16)) ∧
  (∀ (hash : Vector Word 8) (block : List Word), block.length = 16 → ∃ x : Nat → Working,
    x 0 = ⟨hash[0], hash[1], hash[2], hash[3], hash[4], hash[5], hash[6], hash[7]⟩ ∧
    (∀ t < 64, IsNextRound (roundConstants.getD t 0#32) ((messageSchedule block).getD t 0#32) (x t) (x (t + 1))) ∧
    compress hash block =
      #v[(x 64).a + hash[0], (x 64).b + hash[1], (x 64).c + hash[2], (x 64).d + hash[3],
         (x 64).e + hash[4], (x 64).f + hash[5], (x 64).g + hash[6], (x 64).h + hash[7]]) ∧
  (∀ p : Nat, p.Prime → p ≤ 311 → IsRootFraction 3 p (roundConstants.getD (Nat.primeCounting' p) 0#32)) ∧
  (∀ p : Nat, p.Prime → p ≤ 19 → IsRootFraction 2 p (initialHash.toList.getD (Nat.primeCounting' p) 0#32)) ∧
  ∀ m : List Byte, ∃ hash : Nat → Vector Word 8,
    hash 0 = initialHash ∧
    (∀ j < (shaPad m).length / 64, ∃ block : List Word, block.length = 16 ∧
      (∀ t < 16, block.getD t 0#32 =
        (shaPad m).getD (64 * j + 4 * t) 0#8 ++ (shaPad m).getD (64 * j + 4 * t + 1) 0#8 ++
          (shaPad m).getD (64 * j + 4 * t + 2) 0#8 ++ (shaPad m).getD (64 * j + 4 * t + 3) 0#8) ∧
      hash (j + 1) = compress (hash j) block) ∧
    (sha256 m).length = 32 ∧
    ∀ (w : Fin 8), ∀ q < 4,
      (sha256 m).getD (4 * w.val + q) 0#8 = (hash ((shaPad m).length / 64))[w].extractLsb' (24 - 8 * q) 8

/-! ## The mnemonic codec (42_codec.md) -/

/-- R101, with R100's bits: `EXTRACT k` leaves in `INDEX` the 11 stream bits from 11k, most significant first, when `CS` is
legal, `CKV = 1` and k < NW; its errors come in the order `InvalidStrength`, `NotReady`, `IndexRange`, and each changes
nothing else. -/
def Obligations.ExtractResult : Prop :=
  ∀ (k : BitVec 5) (s : State),
    (4 ≤ s.ctrlCs.toNat ∧ s.ctrlCs.toNat ≤ 8 → s.ckv = true → k.toNat < 3 * s.ctrlCs.toNat →
      ∃ i : WordIndex, exec (.extract k) s = .next (reportOk { s with indexIdx := i }) ∧
        ∀ t < 11, i.getMsbD t = s.buf.getMsbD (11 * k.toNat + t)) ∧
    (¬ (4 ≤ s.ctrlCs.toNat ∧ s.ctrlCs.toNat ≤ 8) → exec (.extract k) s = .next (reportError 1#4 0#5 s)) ∧
    (4 ≤ s.ctrlCs.toNat ∧ s.ctrlCs.toNat ≤ 8 → s.ckv = false →
      exec (.extract k) s = .next (reportError 10#4 0#5 s)) ∧
    (4 ≤ s.ctrlCs.toNat ∧ s.ctrlCs.toNat ≤ 8 → s.ckv = true → 3 * s.ctrlCs.toNat ≤ k.toNat →
      exec (.extract k) s = .next (reportError 9#4 0#5 s))

/-- R102: `BEGIN n` for n in {12,15,18,21,24} sets `CS` to n/3 and zeroes buffer, digest and checksum, `CKV = 0`; for any
other n it fails with `InvalidWordCount` and changes nothing else. -/
def Obligations.BeginResult : Prop :=
  ∀ (n : BitVec 5) (s : State),
    (n.toNat ∈ [12, 15, 18, 21, 24] →
      ∃ cs : BitVec 4, 3 * cs.toNat = n.toNat ∧
        exec (.begin n) s = .next (reportOk { s with
          ctrlCs := cs, buf := 0#264, dig := Vector.replicate 8 0#32, cksumVal := 0#8, cksumLen := 0#4,
          ckv := false })) ∧
    (n.toNat ∉ [12, 15, 18, 21, 24] → exec (.begin n) s = .next (reportError 4#4 0#5 s))

/-- R103: `PACK k, i` with a legal `CS` and k < NW sets stream bits 11k .. 11k+10 to i, most significant first, keeps every
other stream bit, and clears `CKV`; its errors come in the order `InvalidWordCount`, `IndexRange`, and each changes
nothing else. -/
def Obligations.PackResult : Prop :=
  ∀ (k : BitVec 5) (i : WordIndex) (s : State),
    (4 ≤ s.ctrlCs.toNat ∧ s.ctrlCs.toNat ≤ 8 → k.toNat < 3 * s.ctrlCs.toNat →
      ∃ b : BitBuffer, exec (.pack k i) s = .next (reportOk { s with buf := b, ckv := false }) ∧
        ∀ j < 264, b.getMsbD j =
          if 11 * k.toNat ≤ j ∧ j < 11 * k.toNat + 11 then i.getMsbD (j - 11 * k.toNat) else s.buf.getMsbD j) ∧
    (¬ (4 ≤ s.ctrlCs.toNat ∧ s.ctrlCs.toNat ≤ 8) → exec (.pack k i) s = .next (reportError 4#4 0#5 s)) ∧
    (4 ≤ s.ctrlCs.toNat ∧ s.ctrlCs.toNat ≤ 8 → 3 * s.ctrlCs.toNat ≤ k.toNat →
      exec (.pack k i) s = .next (reportError 9#4 0#5 s))

/-- R100: in register terms, with p = 11k, q = p div 32, r = p mod 32 and X = `BUF[q] ‖ BUF[q+1]`, `G(k) = X[63−r : 53−r]`,
for every group a `CS` of 8 has. -/
def Obligations.GroupInRegisterTerms : Prop :=
  ∀ (s : State) (k : Nat), k < 24 →
    let word := fun q => if q = 8 then readReg .buf8 s else readReg (.buf (Fin.ofNat 8 q)) s
    let x : BitVec 64 := word (11 * k / 32) ++ word (11 * k / 32 + 1)
    group s.buf k = x.extractLsb' (53 - 11 * k % 32) 11

/-- R103: packing the same group twice keeps the last value: the first `PACK` leaves no trace. -/
def Obligations.LastPackOfAGroupWins : Prop :=
  ∀ (k : BitVec 5) (i j : WordIndex) (s t : State),
    exec (.pack k i) s = .next t → exec (.pack k j) t = exec (.pack k j) s

/-- R103: groups may be packed in any order. -/
def Obligations.PacksOfDifferentGroupsCommute : Prop :=
  ∀ (k l : BitVec 5) (i j : WordIndex) (s t u : State), k ≠ l →
    exec (.pack k i) s = .next t → t.err = false → exec (.pack l j) s = .next u → u.err = false →
    exec (.pack l j) t = exec (.pack k i) u

/-- 10_state.md R37: stream bits past L are left unchanged by every command except `BEGIN`, `WIPE` and a failing `VERIFY`. -/
def Obligations.TailOfTheBufferIsKept : Prop :=
  ∀ (c : Instr) (s t : State) (j : Nat), exec c s = .next t → (∀ n, c ≠ .begin n) → c ≠ .wipe →
    ¬ (c = .verify ∧ t.err = true) → 33 * s.ctrlCs.toNat ≤ j → t.buf.getMsbD j = s.buf.getMsbD j

/-- R104, the round trip: for every legal `CS` and every entropy, `CHECKSUM` and `EXTRACT` of every group, then `BEGIN`,
`PACK` of the same indices and `VERIFY`, all succeed, and the buffer's entropy bytes are the original ones. -/
def Obligations.RoundTripRecoversTheEntropy : Prop :=
  ∀ s : State, 4 ≤ s.ctrlCs.toNat → s.ctrlCs.toNat ≤ 8 →
    ∃ t indices u v,
      runOk [.checksum] s = some t ∧ extractAll (groupNumbers s.ctrlCs) t = some (indices, u) ∧
      runOk (decodeCommands s.ctrlCs indices) u = some v ∧
      v.ckv = true ∧ v.ctrlCs = s.ctrlCs ∧ entropyBytes v.ctrlCs v.buf = entropyBytes s.ctrlCs s.buf

/-! ## The wordlist (43_wordlist.md, 10_state.md R43 to R46) -/

/-- 10_state.md R44, R45: every language's table has distinct entries (2048 of them, by its type) of 1 to 32 bytes, each in
the language's byte form; english's form is ASCII without upper-case letters or surrounding whitespace (43_wordlist.md R111,
read as log 18 says); and english's entries 0 and 3 are "abandon" and "about". The table, and another language's form, are
free (logs 5, 18). -/
def Obligations.EveryTableIsWellFormed : Prop :=
  (∀ (l : LangCode) (i j : WordIndex), Config.rom l i = Config.rom l j → i = j) ∧
  (∀ (l : LangCode) (i : WordIndex), 1 ≤ (Config.rom l i).length ∧ (Config.rom l i).length ≤ 32) ∧
  (∀ (l : LangCode) (i : WordIndex), Config.nativeForm l (Config.rom l i) = true) ∧
  (∀ (i : WordIndex), ∀ b ∈ Config.rom 0#4 i, b.toNat < 0x80 ∧ ¬ (0x41 ≤ b.toNat ∧ b.toNat ≤ 0x5A)) ∧
  (∀ (i : WordIndex) (b : Byte), (Config.rom 0#4 i).head? = some b ∨ (Config.rom 0#4 i).getLast? = some b →
    b ≠ 0x20#8 ∧ ¬ (0x09 ≤ b.toNat ∧ b.toNat ≤ 0x0D)) ∧
  Config.rom 0#4 0#11 = [0x61#8, 0x62#8, 0x61#8, 0x6E#8, 0x64#8, 0x6F#8, 0x6E#8] ∧
  Config.rom 0#4 3#11 = [0x61#8, 0x62#8, 0x6F#8, 0x75#8, 0x74#8]

/-- 10_state.md R46: `CAM(l, w)` is the unique i with `ROM(l, i) = w`, if one exists, and none otherwise. 43_wordlist.md
R111: a word in another form than the table's is found nowhere, never at a wrong index. -/
def Obligations.CamIsTheInverseOfTheRom : Prop :=
  (∀ (l : LangCode) (w : List Byte) (i : WordIndex), cam l w = some i ↔ Config.rom l i = w) ∧
  (∀ (l : LangCode) (w : List Byte), cam l w = none ↔ ∀ i, Config.rom l i ≠ w) ∧
  ∀ (l : LangCode) (w : List Byte), Config.nativeForm l w = false → cam l w = none

/-- 10_state.md R31: bit l of `LANGS` is 1 exactly when l ∈ `LANG_SET`; bit 0 is always 1; bits [31:16] read 0; the value is
the same in every state, busy or not. -/
def Obligations.LangsShowsTheLanguageSet : Prop :=
  ∀ s : State,
    (∀ l : LangCode, (busReadValue 0x1C#8 s).getLsbD l.toNat = Config.langSupported l) ∧
    (busReadValue 0x1C#8 s).getLsbD 0 = true ∧ (∀ j, 16 ≤ j → (busReadValue 0x1C#8 s).getLsbD j = false) ∧
    busReadValue 0x1C#8 s = busReadValue 0x1C#8 State.reset

/-- R108: with a supported language, `WORD_AT i` leaves the word's length in `WOUT_LEN` and its bytes, zero filled, in all
32 bytes of `WOUT`; otherwise it fails with `UnsupportedLanguage` and changes nothing else. -/
def Obligations.WordAtResult : Prop :=
  ∀ (i : WordIndex) (s : State),
    (Config.langSupported s.ctrlLang = true →
      ∃ (n : BitVec 6) (v : Vector Word 8),
        exec (.wordAt i) s = .next (reportOk { s with woutLen := n, wout := v }) ∧
        n.toNat = (Config.rom s.ctrlLang i).length ∧
        ∀ j < 32, (unpackBytes v).getD j 0#8 =
          if j < (Config.rom s.ctrlLang i).length then (Config.rom s.ctrlLang i).getD j 0#8 else 0#8) ∧
    (Config.langSupported s.ctrlLang = false → exec (.wordAt i) s = .next (reportError 3#4 0#5 s))

/-- R110, with R109's match relation: `INDEX_OF p` leaves the matching index in `INDEX` and `FOUND = 1`; an unsupported
language and then an unknown word are errors that leave `FOUND = 0`, the latter recording p, and change nothing else. -/
def Obligations.IndexOfResult : Prop :=
  ∀ (p : BitVec 5) (s : State),
    (Config.langSupported s.ctrlLang = true → ∀ i, EntryMatches s s.ctrlLang i →
      exec (.indexOf p) s = .next (reportOk { s with indexIdx := i, found := true })) ∧
    (Config.langSupported s.ctrlLang = true → (∀ i, ¬ EntryMatches s s.ctrlLang i) →
      exec (.indexOf p) s = .next (reportError 5#4 p { s with found := false })) ∧
    (Config.langSupported s.ctrlLang = false →
      exec (.indexOf p) s = .next (reportError 3#4 0#5 { s with found := false }))

/-- R112: after `WORD_AT i`, copying `WOUT` and `WOUT_LEN` into `WIN` and `WIN_LEN` and running `INDEX_OF` gives
`INDEX = i`; and for every word that `INDEX_OF` finds, `WORD_AT` of the index returns that word. -/
def Obligations.WordAtAndIndexOfAreInverse : Prop :=
  (∀ (i : WordIndex) (p : BitVec 5) (s t : State), exec (.wordAt i) s = .next t → t.err = false →
    ∃ u, exec (.indexOf p) { t with win := t.wout, winLen := t.woutLen } = .next u ∧ u.err = false ∧ u.indexIdx = i) ∧
  ∀ (p : BitVec 5) (s t : State), exec (.indexOf p) s = .next t → t.err = false →
    ∃ u, exec (.wordAt t.indexIdx) t = .next u ∧ u.err = false ∧ u.woutLen = s.winLen ∧
      (unpackBytes u.wout).take s.winLen.toNat = (unpackBytes s.win).take s.winLen.toNat

/-! ## Zeroisation, no-operation and reset (44_secure.md, 70_reset_and_hazards.md) -/

/-- R114: `WIPE` zeroes every secret and working register, clears `CKV` and `FOUND`, always succeeds, and keeps `CTRL` and
`OVR`. -/
def Obligations.WipeResult : Prop :=
  ∀ s : State, exec .wipe s = .next (reportOk { s with
    buf := 0#264, dig := Vector.replicate 8 0#32, cksumVal := 0#8, cksumLen := 0#4, indexIdx := 0#11, winLen := 0#6,
    win := Vector.replicate 8 0#32, woutLen := 0#6, wout := Vector.replicate 8 0#32, ckv := false, found := false })

/-- R114: after `WIPE` nothing that was secret can be read: the host sees the same value at every offset whatever the
registers held, as long as `CTRL` and `OVR` agreed. -/
def Obligations.WipeLeavesNoTrace : Prop :=
  ∀ (s s' t t' : State) (off : Offset), s.ctrlCs = s'.ctrlCs → s.ctrlLang = s'.ctrlLang → s.ovr = s'.ovr →
    exec .wipe s = .next t → exec .wipe s' = .next t' →
    busReadValue off t = busReadValue off t' ∧ wiped t = true

/-- R115: `NOP` completes with no effect. -/
def Obligations.NopResult : Prop :=
  ∀ s : State, exec .nop s = .next (reportOk s)

/-- R134: asserting reset takes every register to its reset value in one step and abandons a latched command, busy or
not; the model starts in the state the block is then in. That the reset input is a level held in `resetLine`, and that the
host's fields stay, is the model's choice (log 8, DESIGN CHOICE); so is that the host moves next (log 2). -/
def Obligations.ResetTakesEveryRegisterToItsResetValue : Prop :=
  ∀ s : State, s.busy = false ∨ s.delay ≠ 0 →
    stepWith .assertReset s = .next { s with
      ctrlCs := 0#4, ctrlLang := 0#4, busy := false, done := false, err := false, ckv := false, found := false,
      ovr := false, ecode := 0#4, cmdq := none, indexIdx := 0#11, cksumVal := 0#8, cksumLen := 0#4, errPos := 0#5,
      winLen := 0#6, win := Vector.replicate 8 0#32, woutLen := 0#6, wout := Vector.replicate 8 0#32, buf := 0#264,
      dig := Vector.replicate 8 0#32, resetLine := true } ∧
    ∀ t, stepWith .assertReset s = .next t →
      State.reset = { t with
        resetLine := State.reset.resetLine, script := State.reset.script, responses := State.reset.responses,
        delay := State.reset.delay, delays := State.reset.delays, draws := State.reset.draws }

/-- R135: after reset every register reads 0, except `ID` and `LANGS`, its configured constant. -/
def Obligations.ReadsAfterReset : Prop :=
  ∀ off : Offset, busReadValue off State.reset =
    if off.toNat / 4 = 0 then 0x53334431#32 else if off.toNat / 4 = 7 then Config.langSet.setWidth 32 else 0#32

/-! ## Invariants: every step keeps them, and they hold at reset -/

/-- 10_state.md R39: `CKV = 1` says that the stored checksum is the checksum of the stored entropy; every step keeps it. -/
def Obligations.StepKeepsCkvConsistent : Prop :=
  ∀ s t : State, CkvConsistent s → step s = .next t → CkvConsistent t

/-- 10_state.md R26, R30, 60_exceptions.md R121, 40_lifecycle.md R76: `ERR = 1` exactly when `ECODE ≠ 0`, the reserved codes
are never reported, and a busy block has a latched word and no report; every step keeps it. -/
def Obligations.StepKeepsStatusConsistent : Prop :=
  ∀ s t : State, StatusConsistent s → step s = .next t → StatusConsistent t

/-- 10_state.md R34, R35: bytes of `WOUT` at positions ≥ `WOUT_LEN` are 0; every step keeps it. -/
def Obligations.StepKeepsWoutTailZero : Prop :=
  ∀ s t : State, WoutTailZero s → step s = .next t → WoutTailZero t

/-- 70_reset_and_hazards.md R134, R139: while reset is asserted the block stands at its reset values; every step keeps it. -/
def Obligations.StepKeepsHeldInReset : Prop :=
  ∀ s t : State, HeldInReset s → step s = .next t → HeldInReset t

/-- The four invariants hold at reset. -/
def Obligations.ResetMeetsTheInvariants : Prop :=
  CkvConsistent State.reset ∧ StatusConsistent State.reset ∧ WoutTailZero State.reset ∧ HeldInReset State.reset

/-! ## Script (30_encoding.md R70) -/

/-- R70: from a state that is not busy, the nine writes of `setword` leave the string's length in `WIN_LEN` and its bytes,
zero padded, in `WIN`, and change no other register. -/
def Obligations.SetwordStoresTheWord : Prop :=
  ∀ (s : State) (b : List Byte), s.busy = false → s.resetLine = false → b.length ≤ 32 →
    core.run 9 { s with script := expand (.setword b) ++ s.script } =
      .next { s with winLen := BitVec.ofNat 6 b.length, win := packBytes b }
end

