-- ==== Sys2Proof/Laws/Bytes.lean ====
section
/-! SUPPORT. Byte strings in registers: packing and unpacking are inverse. -/

namespace Sys2Proof.Machine

/-- The bits of four bytes packed in a register. -/
theorem append4_getLsbD (a b c d : Byte) (i : Nat) :
    BitVec.getLsbD (w := 32) (a ++ b ++ c ++ d) i =
      if i < 8 then d.getLsbD i else if i < 16 then c.getLsbD (i - 8) else if i < 24 then b.getLsbD (i - 16)
        else a.getLsbD (i - 24) := by
  have h := BitVec.getLsbD_append (x := a ++ b ++ c) (y := d) (i := i)
  rw [show BitVec.getLsbD (w := 32) (a ++ b ++ c ++ d) i = BitVec.getLsbD (a ++ b ++ c ++ d) i from rfl, h]
  simp only [BitVec.getLsbD_append]
  have e1 : i - 8 < 8 ↔ i < 16 ∨ i < 8 := by omega
  by_cases h1 : i < 8
  · simp [h1]
  · by_cases h2 : i < 16
    · have : i - 8 < 8 := by omega
      simp [h1, h2, this]
    · by_cases h3 : i < 24
      · have a1 : ¬ i - 8 < 8 := by omega
        have a2 : i - 8 - 8 < 8 := by omega
        have a3 : i - 8 - 8 = i - 16 := by omega
        simp [h1, h2, h3, a1, a3]; omega
      · have a1 : ¬ i - 8 < 8 := by omega
        have a2 : ¬ i - 8 - 8 < 8 := by omega
        have a3 : i - 8 - 8 - 8 = i - 24 := by omega
        simp [h1, h2, h3, a1, a3]; omega

/-- A register's bytes are the four it was packed from (20_memory.md R52). -/
theorem wordBytes_append (a b c d : Byte) : wordBytes (a ++ b ++ c ++ d) = [a, b, c, d] := by
  simp only [wordBytes, List.cons.injEq, and_true]
  refine ⟨?_, ?_, ?_, ?_⟩ <;>
  · refine BitVec.eq_of_getLsbD_eq fun i hi => ?_
    rw [BitVec.getLsbD_extractLsb', append4_getLsbD]
    simp [hi]
    try split_ifs <;> first | omega | rfl

/-- A register is its four bytes, the first most significant. -/
theorem append_wordBytes (w : Word) :
    w.extractLsb' 24 8 ++ w.extractLsb' 16 8 ++ w.extractLsb' 8 8 ++ w.extractLsb' 0 8 = w := by
  refine BitVec.eq_of_getLsbD_eq fun i hi => ?_
  rw [append4_getLsbD]
  simp only [BitVec.getLsbD_extractLsb']
  split
  · simp [*]
  · split
    · have : i - 8 < 8 := by omega
      have : 8 + (i - 8) = i := by omega
      simp [*]
    · split
      · have : i - 16 < 8 := by omega
        have : 16 + (i - 16) = i := by omega
        simp [*]
      · have : i - 24 < 8 := by omega
        have : 24 + (i - 24) = i := by omega
        simp [*]

/-- The bytes of register w of a packed string are bytes 4w .. 4w+3 of the string. -/
theorem wordBytes_packWord (b : List Byte) (w : Nat) :
    wordBytes (packWord b w) = [b.getD (4 * w) 0#8, b.getD (4 * w + 1) 0#8, b.getD (4 * w + 2) 0#8, b.getD (4 * w + 3) 0#8] :=
  wordBytes_append _ _ _ _

/-- Packing a string and reading it back gives its first 32 bytes, zero filled. -/
theorem unpack_packBytes (b : List Byte) : unpackBytes (packBytes b) = (List.range 32).map fun j => b.getD j 0#8 := by
  simp only [unpackBytes, packBytes, Vector.toList_mk, List.flatMap_cons, List.flatMap_nil, wordBytes_packWord]
  rfl

/-- Eight registers are the packing of their 32 bytes. -/
theorem pack_unpackBytes (v : Vector Word 8) : packBytes (unpackBytes v) = v := by
  obtain ⟨⟨l⟩, h⟩ := v
  match l, h with
  | [a, b, c, d, e, f, g, h], _ =>
    simp only [packBytes, packWord, unpackBytes, Vector.toList_mk, List.flatMap_cons, List.flatMap_nil, wordBytes]
    simp [append_wordBytes]

/-- Eight registers hold 32 bytes. -/
theorem unpackBytes_length (v : Vector Word 8) : (unpackBytes v).length = 32 := by
  simp [unpackBytes, wordBytes]

end Sys2Proof.Machine
end

