-- ==== Sys2Proof/Laws/Encoding.lean ====
section
/-! SUPPORT. Command words and their fields: assembling and taking apart are inverse, and an opcode row matches a word field
by field. -/

namespace Sys2Proof

/-- The bits of a word, by field (30_encoding.md R62). -/
theorem assemble_getLsbD (f : Fields) (i : Nat) :
    (assemble f).getLsbD i =
      if i < 8 then f.op.getLsbD i else if i < 13 then f.k.getLsbD (i - 8) else if i < 16 then f.r1.getLsbD (i - 13)
        else if i < 27 then f.idx.getLsbD (i - 16) else f.r2.getLsbD (i - 27) := by
  have h := BitVec.getLsbD_append (x := f.r2 ++ f.idx ++ f.r1 ++ f.k) (y := f.op) (i := i)
  rw [show (assemble f).getLsbD i = BitVec.getLsbD (f.r2 ++ f.idx ++ f.r1 ++ f.k ++ f.op) i from rfl, h]
  simp only [BitVec.getLsbD_append]
  have s1 : i - 8 - 5 = i - 13 := by omega
  have s2 : i - 13 - 3 = i - 16 := by omega
  have s3 : i - 16 - 11 = i - 27 := by omega
  simp only [s1, s2, s3]
  split_ifs <;> first | rfl | omega

/-- A word's fields are the fields it was assembled from. -/
theorem fieldsOf_assemble (f : Fields) : fieldsOf (assemble f) = f := by
  obtain ⟨r2, idx, r1, k, op⟩ := f
  simp only [fieldsOf, wordIdx, wordK, wordOp, Fields.mk.injEq]
  refine ⟨?_, ?_, ?_, ?_, ?_⟩ <;>
  · refine BitVec.eq_of_getLsbD_eq fun i hi => ?_
    rw [BitVec.getLsbD_extractLsb', assemble_getLsbD]
    simp only [hi, decide_true, Bool.true_and]
    split_ifs <;> first | omega | (congr 1; omega)

/-- A word is assembled from its fields. -/
theorem assemble_fieldsOf (w : Word) : assemble (fieldsOf w) = w := by
  refine BitVec.eq_of_getLsbD_eq fun i hi => ?_
  rw [assemble_getLsbD]
  simp only [fieldsOf, wordIdx, wordK, wordOp, BitVec.getLsbD_extractLsb']
  split_ifs
  · simp [*]
  · have : i - 8 < 5 := by omega
    have : 8 + (i - 8) = i := by omega
    simp [*]
  · have : i - 13 < 3 := by omega
    have : 13 + (i - 13) = i := by omega
    simp [*]
  · have : i - 16 < 11 := by omega
    have : 16 + (i - 16) = i := by omega
    simp [*]
  · have : i - 27 < 5 := by omega
    have : 27 + (i - 27) = i := by omega
    simp [*]

/-- A word agrees with an opcode row exactly when the bits under the mask do. -/
theorem rowMatches_iff (w : Word) (r : OpcodeRow) :
    rowMatches w r = true ↔ ∀ i < 32, r.pattern.getLsbD i = (w.getLsbD i && r.mask.getLsbD i) := by
  simp only [rowMatches, beq_iff_eq]
  constructor
  · rintro h i -
    rw [← h, BitVec.getLsbD_and]
  · intro h
    refine BitVec.eq_of_getLsbD_eq fun i hi => ?_
    rw [h i hi, BitVec.getLsbD_and]


/-- A word matches a row exactly when each of its fields does. -/
theorem rowMatches_iff_fields (w : Word) (r : OpcodeRow) :
    rowMatches w r = true ↔
      (fieldsOf w).r2 &&& (fieldsOf r.mask).r2 = (fieldsOf r.pattern).r2 ∧
      (fieldsOf w).idx &&& (fieldsOf r.mask).idx = (fieldsOf r.pattern).idx ∧
      (fieldsOf w).r1 &&& (fieldsOf r.mask).r1 = (fieldsOf r.pattern).r1 ∧
      (fieldsOf w).k &&& (fieldsOf r.mask).k = (fieldsOf r.pattern).k ∧
      (fieldsOf w).op &&& (fieldsOf r.mask).op = (fieldsOf r.pattern).op := by
  have key : fieldsOf (w &&& r.mask) = fieldsOf r.pattern ↔ w &&& r.mask = r.pattern := by
    refine ⟨fun h => ?_, fun h => by rw [h]⟩
    rw [← assemble_fieldsOf (w &&& r.mask), h, assemble_fieldsOf]
  simp only [rowMatches, beq_iff_eq, ← key]
  simp only [fieldsOf, wordIdx, wordK, wordOp, BitVec.extractLsb'_and, Fields.mk.injEq]

end Sys2Proof
end

