-- ==== Sys2Proof/Laws/State.lean ====
section
/-! SUPPORT. One lemma per field per named update of the state, each true by unfolding, so that no later proof unfolds one. -/

namespace Sys2Proof.Machine

/-! ### `finish` -/

@[simp] theorem finish_ctrlCs (r : Result) (s : State) : (finish r s).ctrlCs = s.ctrlCs := rfl
@[simp] theorem finish_ctrlLang (r : Result) (s : State) : (finish r s).ctrlLang = s.ctrlLang := rfl
@[simp] theorem finish_busy (r : Result) (s : State) : (finish r s).busy = false := rfl
@[simp] theorem finish_done (r : Result) (s : State) : (finish r s).done = true := rfl
@[simp] theorem finish_err (r : Result) (s : State) : (finish r s).err = resultErr r := rfl
@[simp] theorem finish_ckv (r : Result) (s : State) : (finish r s).ckv = s.ckv := rfl
@[simp] theorem finish_found (r : Result) (s : State) : (finish r s).found = s.found := rfl
@[simp] theorem finish_ovr (r : Result) (s : State) : (finish r s).ovr = s.ovr := rfl
@[simp] theorem finish_ecode (r : Result) (s : State) : (finish r s).ecode = resultCode r := rfl
@[simp] theorem finish_cmdq (r : Result) (s : State) : (finish r s).cmdq = s.cmdq := rfl
@[simp] theorem finish_indexIdx (r : Result) (s : State) : (finish r s).indexIdx = s.indexIdx := rfl
@[simp] theorem finish_cksumVal (r : Result) (s : State) : (finish r s).cksumVal = s.cksumVal := rfl
@[simp] theorem finish_cksumLen (r : Result) (s : State) : (finish r s).cksumLen = s.cksumLen := rfl
@[simp] theorem finish_errPos (r : Result) (s : State) : (finish r s).errPos = resultPos r := rfl
@[simp] theorem finish_winLen (r : Result) (s : State) : (finish r s).winLen = s.winLen := rfl
@[simp] theorem finish_win (r : Result) (s : State) : (finish r s).win = s.win := rfl
@[simp] theorem finish_woutLen (r : Result) (s : State) : (finish r s).woutLen = s.woutLen := rfl
@[simp] theorem finish_wout (r : Result) (s : State) : (finish r s).wout = s.wout := rfl
@[simp] theorem finish_buf (r : Result) (s : State) : (finish r s).buf = s.buf := rfl
@[simp] theorem finish_dig (r : Result) (s : State) : (finish r s).dig = s.dig := rfl
@[simp] theorem finish_resetLine (r : Result) (s : State) : (finish r s).resetLine = s.resetLine := rfl
@[simp] theorem finish_script (r : Result) (s : State) : (finish r s).script = s.script := rfl
@[simp] theorem finish_responses (r : Result) (s : State) : (finish r s).responses = s.responses := rfl
@[simp] theorem finish_delay (r : Result) (s : State) : (finish r s).delay = s.delay := rfl
@[simp] theorem finish_delays (r : Result) (s : State) : (finish r s).delays = s.delays := rfl
@[simp] theorem finish_draws (r : Result) (s : State) : (finish r s).draws = s.draws := rfl

/-! ### `clearBuffer` -/

@[simp] theorem clearBuffer_ctrlCs (s : State) : (clearBuffer s).ctrlCs = s.ctrlCs := rfl
@[simp] theorem clearBuffer_ctrlLang (s : State) : (clearBuffer s).ctrlLang = s.ctrlLang := rfl
@[simp] theorem clearBuffer_busy (s : State) : (clearBuffer s).busy = s.busy := rfl
@[simp] theorem clearBuffer_done (s : State) : (clearBuffer s).done = s.done := rfl
@[simp] theorem clearBuffer_err (s : State) : (clearBuffer s).err = s.err := rfl
@[simp] theorem clearBuffer_ckv (s : State) : (clearBuffer s).ckv = false := rfl
@[simp] theorem clearBuffer_found (s : State) : (clearBuffer s).found = s.found := rfl
@[simp] theorem clearBuffer_ovr (s : State) : (clearBuffer s).ovr = s.ovr := rfl
@[simp] theorem clearBuffer_ecode (s : State) : (clearBuffer s).ecode = s.ecode := rfl
@[simp] theorem clearBuffer_cmdq (s : State) : (clearBuffer s).cmdq = s.cmdq := rfl
@[simp] theorem clearBuffer_indexIdx (s : State) : (clearBuffer s).indexIdx = s.indexIdx := rfl
@[simp] theorem clearBuffer_cksumVal (s : State) : (clearBuffer s).cksumVal = 0#8 := rfl
@[simp] theorem clearBuffer_cksumLen (s : State) : (clearBuffer s).cksumLen = 0#4 := rfl
@[simp] theorem clearBuffer_errPos (s : State) : (clearBuffer s).errPos = s.errPos := rfl
@[simp] theorem clearBuffer_winLen (s : State) : (clearBuffer s).winLen = s.winLen := rfl
@[simp] theorem clearBuffer_win (s : State) : (clearBuffer s).win = s.win := rfl
@[simp] theorem clearBuffer_woutLen (s : State) : (clearBuffer s).woutLen = s.woutLen := rfl
@[simp] theorem clearBuffer_wout (s : State) : (clearBuffer s).wout = s.wout := rfl
@[simp] theorem clearBuffer_buf (s : State) : (clearBuffer s).buf = 0#264 := rfl
@[simp] theorem clearBuffer_dig (s : State) : (clearBuffer s).dig = Vector.replicate 8 0#32 := rfl
@[simp] theorem clearBuffer_resetLine (s : State) : (clearBuffer s).resetLine = s.resetLine := rfl
@[simp] theorem clearBuffer_script (s : State) : (clearBuffer s).script = s.script := rfl
@[simp] theorem clearBuffer_responses (s : State) : (clearBuffer s).responses = s.responses := rfl
@[simp] theorem clearBuffer_delay (s : State) : (clearBuffer s).delay = s.delay := rfl
@[simp] theorem clearBuffer_delays (s : State) : (clearBuffer s).delays = s.delays := rfl
@[simp] theorem clearBuffer_draws (s : State) : (clearBuffer s).draws = s.draws := rfl

/-! ### `storeDigest` -/

@[simp] theorem storeDigest_ctrlCs (cs : BitVec 4) (d : List Byte) (c : BitVec 8) (s : State) : (storeDigest cs d c s).ctrlCs = s.ctrlCs := rfl
@[simp] theorem storeDigest_ctrlLang (cs : BitVec 4) (d : List Byte) (c : BitVec 8) (s : State) : (storeDigest cs d c s).ctrlLang = s.ctrlLang := rfl
@[simp] theorem storeDigest_busy (cs : BitVec 4) (d : List Byte) (c : BitVec 8) (s : State) : (storeDigest cs d c s).busy = s.busy := rfl
@[simp] theorem storeDigest_done (cs : BitVec 4) (d : List Byte) (c : BitVec 8) (s : State) : (storeDigest cs d c s).done = s.done := rfl
@[simp] theorem storeDigest_err (cs : BitVec 4) (d : List Byte) (c : BitVec 8) (s : State) : (storeDigest cs d c s).err = s.err := rfl
@[simp] theorem storeDigest_ckv (cs : BitVec 4) (d : List Byte) (c : BitVec 8) (s : State) : (storeDigest cs d c s).ckv = true := rfl
@[simp] theorem storeDigest_found (cs : BitVec 4) (d : List Byte) (c : BitVec 8) (s : State) : (storeDigest cs d c s).found = s.found := rfl
@[simp] theorem storeDigest_ovr (cs : BitVec 4) (d : List Byte) (c : BitVec 8) (s : State) : (storeDigest cs d c s).ovr = s.ovr := rfl
@[simp] theorem storeDigest_ecode (cs : BitVec 4) (d : List Byte) (c : BitVec 8) (s : State) : (storeDigest cs d c s).ecode = s.ecode := rfl
@[simp] theorem storeDigest_cmdq (cs : BitVec 4) (d : List Byte) (c : BitVec 8) (s : State) : (storeDigest cs d c s).cmdq = s.cmdq := rfl
@[simp] theorem storeDigest_indexIdx (cs : BitVec 4) (d : List Byte) (c : BitVec 8) (s : State) : (storeDigest cs d c s).indexIdx = s.indexIdx := rfl
@[simp] theorem storeDigest_cksumVal (cs : BitVec 4) (d : List Byte) (c : BitVec 8) (s : State) : (storeDigest cs d c s).cksumVal = c := rfl
@[simp] theorem storeDigest_cksumLen (cs : BitVec 4) (d : List Byte) (c : BitVec 8) (s : State) : (storeDigest cs d c s).cksumLen = cs := rfl
@[simp] theorem storeDigest_errPos (cs : BitVec 4) (d : List Byte) (c : BitVec 8) (s : State) : (storeDigest cs d c s).errPos = s.errPos := rfl
@[simp] theorem storeDigest_winLen (cs : BitVec 4) (d : List Byte) (c : BitVec 8) (s : State) : (storeDigest cs d c s).winLen = s.winLen := rfl
@[simp] theorem storeDigest_win (cs : BitVec 4) (d : List Byte) (c : BitVec 8) (s : State) : (storeDigest cs d c s).win = s.win := rfl
@[simp] theorem storeDigest_woutLen (cs : BitVec 4) (d : List Byte) (c : BitVec 8) (s : State) : (storeDigest cs d c s).woutLen = s.woutLen := rfl
@[simp] theorem storeDigest_wout (cs : BitVec 4) (d : List Byte) (c : BitVec 8) (s : State) : (storeDigest cs d c s).wout = s.wout := rfl
@[simp] theorem storeDigest_buf (cs : BitVec 4) (d : List Byte) (c : BitVec 8) (s : State) : (storeDigest cs d c s).buf = s.buf := rfl
@[simp] theorem storeDigest_dig (cs : BitVec 4) (d : List Byte) (c : BitVec 8) (s : State) : (storeDigest cs d c s).dig = packBytes d := rfl
@[simp] theorem storeDigest_resetLine (cs : BitVec 4) (d : List Byte) (c : BitVec 8) (s : State) : (storeDigest cs d c s).resetLine = s.resetLine := rfl
@[simp] theorem storeDigest_script (cs : BitVec 4) (d : List Byte) (c : BitVec 8) (s : State) : (storeDigest cs d c s).script = s.script := rfl
@[simp] theorem storeDigest_responses (cs : BitVec 4) (d : List Byte) (c : BitVec 8) (s : State) : (storeDigest cs d c s).responses = s.responses := rfl
@[simp] theorem storeDigest_delay (cs : BitVec 4) (d : List Byte) (c : BitVec 8) (s : State) : (storeDigest cs d c s).delay = s.delay := rfl
@[simp] theorem storeDigest_delays (cs : BitVec 4) (d : List Byte) (c : BitVec 8) (s : State) : (storeDigest cs d c s).delays = s.delays := rfl
@[simp] theorem storeDigest_draws (cs : BitVec 4) (d : List Byte) (c : BitVec 8) (s : State) : (storeDigest cs d c s).draws = s.draws := rfl

/-! ### `storeWord` -/

@[simp] theorem storeWord_ctrlCs (w : List Byte) (s : State) : (storeWord w s).ctrlCs = s.ctrlCs := rfl
@[simp] theorem storeWord_ctrlLang (w : List Byte) (s : State) : (storeWord w s).ctrlLang = s.ctrlLang := rfl
@[simp] theorem storeWord_busy (w : List Byte) (s : State) : (storeWord w s).busy = s.busy := rfl
@[simp] theorem storeWord_done (w : List Byte) (s : State) : (storeWord w s).done = s.done := rfl
@[simp] theorem storeWord_err (w : List Byte) (s : State) : (storeWord w s).err = s.err := rfl
@[simp] theorem storeWord_ckv (w : List Byte) (s : State) : (storeWord w s).ckv = s.ckv := rfl
@[simp] theorem storeWord_found (w : List Byte) (s : State) : (storeWord w s).found = s.found := rfl
@[simp] theorem storeWord_ovr (w : List Byte) (s : State) : (storeWord w s).ovr = s.ovr := rfl
@[simp] theorem storeWord_ecode (w : List Byte) (s : State) : (storeWord w s).ecode = s.ecode := rfl
@[simp] theorem storeWord_cmdq (w : List Byte) (s : State) : (storeWord w s).cmdq = s.cmdq := rfl
@[simp] theorem storeWord_indexIdx (w : List Byte) (s : State) : (storeWord w s).indexIdx = s.indexIdx := rfl
@[simp] theorem storeWord_cksumVal (w : List Byte) (s : State) : (storeWord w s).cksumVal = s.cksumVal := rfl
@[simp] theorem storeWord_cksumLen (w : List Byte) (s : State) : (storeWord w s).cksumLen = s.cksumLen := rfl
@[simp] theorem storeWord_errPos (w : List Byte) (s : State) : (storeWord w s).errPos = s.errPos := rfl
@[simp] theorem storeWord_winLen (w : List Byte) (s : State) : (storeWord w s).winLen = s.winLen := rfl
@[simp] theorem storeWord_win (w : List Byte) (s : State) : (storeWord w s).win = s.win := rfl
@[simp] theorem storeWord_woutLen (w : List Byte) (s : State) : (storeWord w s).woutLen = BitVec.ofNat 6 w.length := rfl
@[simp] theorem storeWord_wout (w : List Byte) (s : State) : (storeWord w s).wout = packBytes w := rfl
@[simp] theorem storeWord_buf (w : List Byte) (s : State) : (storeWord w s).buf = s.buf := rfl
@[simp] theorem storeWord_dig (w : List Byte) (s : State) : (storeWord w s).dig = s.dig := rfl
@[simp] theorem storeWord_resetLine (w : List Byte) (s : State) : (storeWord w s).resetLine = s.resetLine := rfl
@[simp] theorem storeWord_script (w : List Byte) (s : State) : (storeWord w s).script = s.script := rfl
@[simp] theorem storeWord_responses (w : List Byte) (s : State) : (storeWord w s).responses = s.responses := rfl
@[simp] theorem storeWord_delay (w : List Byte) (s : State) : (storeWord w s).delay = s.delay := rfl
@[simp] theorem storeWord_delays (w : List Byte) (s : State) : (storeWord w s).delays = s.delays := rfl
@[simp] theorem storeWord_draws (w : List Byte) (s : State) : (storeWord w s).draws = s.draws := rfl

/-! ### `wipeRegisters` -/

@[simp] theorem wipeRegisters_ctrlCs (s : State) : (wipeRegisters s).ctrlCs = s.ctrlCs := rfl
@[simp] theorem wipeRegisters_ctrlLang (s : State) : (wipeRegisters s).ctrlLang = s.ctrlLang := rfl
@[simp] theorem wipeRegisters_busy (s : State) : (wipeRegisters s).busy = s.busy := rfl
@[simp] theorem wipeRegisters_done (s : State) : (wipeRegisters s).done = s.done := rfl
@[simp] theorem wipeRegisters_err (s : State) : (wipeRegisters s).err = s.err := rfl
@[simp] theorem wipeRegisters_ckv (s : State) : (wipeRegisters s).ckv = false := rfl
@[simp] theorem wipeRegisters_found (s : State) : (wipeRegisters s).found = false := rfl
@[simp] theorem wipeRegisters_ovr (s : State) : (wipeRegisters s).ovr = s.ovr := rfl
@[simp] theorem wipeRegisters_ecode (s : State) : (wipeRegisters s).ecode = s.ecode := rfl
@[simp] theorem wipeRegisters_cmdq (s : State) : (wipeRegisters s).cmdq = s.cmdq := rfl
@[simp] theorem wipeRegisters_indexIdx (s : State) : (wipeRegisters s).indexIdx = 0#11 := rfl
@[simp] theorem wipeRegisters_cksumVal (s : State) : (wipeRegisters s).cksumVal = 0#8 := rfl
@[simp] theorem wipeRegisters_cksumLen (s : State) : (wipeRegisters s).cksumLen = 0#4 := rfl
@[simp] theorem wipeRegisters_errPos (s : State) : (wipeRegisters s).errPos = s.errPos := rfl
@[simp] theorem wipeRegisters_winLen (s : State) : (wipeRegisters s).winLen = 0#6 := rfl
@[simp] theorem wipeRegisters_win (s : State) : (wipeRegisters s).win = Vector.replicate 8 0#32 := rfl
@[simp] theorem wipeRegisters_woutLen (s : State) : (wipeRegisters s).woutLen = 0#6 := rfl
@[simp] theorem wipeRegisters_wout (s : State) : (wipeRegisters s).wout = Vector.replicate 8 0#32 := rfl
@[simp] theorem wipeRegisters_buf (s : State) : (wipeRegisters s).buf = 0#264 := rfl
@[simp] theorem wipeRegisters_dig (s : State) : (wipeRegisters s).dig = Vector.replicate 8 0#32 := rfl
@[simp] theorem wipeRegisters_resetLine (s : State) : (wipeRegisters s).resetLine = s.resetLine := rfl
@[simp] theorem wipeRegisters_script (s : State) : (wipeRegisters s).script = s.script := rfl
@[simp] theorem wipeRegisters_responses (s : State) : (wipeRegisters s).responses = s.responses := rfl
@[simp] theorem wipeRegisters_delay (s : State) : (wipeRegisters s).delay = s.delay := rfl
@[simp] theorem wipeRegisters_delays (s : State) : (wipeRegisters s).delays = s.delays := rfl
@[simp] theorem wipeRegisters_draws (s : State) : (wipeRegisters s).draws = s.draws := rfl

/-! ### `latch` -/

@[simp] theorem latch_ctrlCs (v : Word) (s : State) : (latch v s).ctrlCs = s.ctrlCs := rfl
@[simp] theorem latch_ctrlLang (v : Word) (s : State) : (latch v s).ctrlLang = s.ctrlLang := rfl
@[simp] theorem latch_busy (v : Word) (s : State) : (latch v s).busy = true := rfl
@[simp] theorem latch_done (v : Word) (s : State) : (latch v s).done = false := rfl
@[simp] theorem latch_err (v : Word) (s : State) : (latch v s).err = false := rfl
@[simp] theorem latch_ckv (v : Word) (s : State) : (latch v s).ckv = s.ckv := rfl
@[simp] theorem latch_found (v : Word) (s : State) : (latch v s).found = s.found := rfl
@[simp] theorem latch_ovr (v : Word) (s : State) : (latch v s).ovr = s.ovr := rfl
@[simp] theorem latch_ecode (v : Word) (s : State) : (latch v s).ecode = 0#4 := rfl
@[simp] theorem latch_cmdq (v : Word) (s : State) : (latch v s).cmdq = some v := rfl
@[simp] theorem latch_indexIdx (v : Word) (s : State) : (latch v s).indexIdx = s.indexIdx := rfl
@[simp] theorem latch_cksumVal (v : Word) (s : State) : (latch v s).cksumVal = s.cksumVal := rfl
@[simp] theorem latch_cksumLen (v : Word) (s : State) : (latch v s).cksumLen = s.cksumLen := rfl
@[simp] theorem latch_errPos (v : Word) (s : State) : (latch v s).errPos = s.errPos := rfl
@[simp] theorem latch_winLen (v : Word) (s : State) : (latch v s).winLen = s.winLen := rfl
@[simp] theorem latch_win (v : Word) (s : State) : (latch v s).win = s.win := rfl
@[simp] theorem latch_woutLen (v : Word) (s : State) : (latch v s).woutLen = s.woutLen := rfl
@[simp] theorem latch_wout (v : Word) (s : State) : (latch v s).wout = s.wout := rfl
@[simp] theorem latch_buf (v : Word) (s : State) : (latch v s).buf = s.buf := rfl
@[simp] theorem latch_dig (v : Word) (s : State) : (latch v s).dig = s.dig := rfl
@[simp] theorem latch_resetLine (v : Word) (s : State) : (latch v s).resetLine = s.resetLine := rfl
@[simp] theorem latch_script (v : Word) (s : State) : (latch v s).script = s.script := rfl
@[simp] theorem latch_responses (v : Word) (s : State) : (latch v s).responses = s.responses := rfl
@[simp] theorem latch_delay (v : Word) (s : State) : (latch v s).delay = s.delay := rfl
@[simp] theorem latch_delays (v : Word) (s : State) : (latch v s).delays = s.delays := rfl
@[simp] theorem latch_draws (v : Word) (s : State) : (latch v s).draws = s.draws := rfl

/-! ### `drawLatency` -/

@[simp] theorem drawLatency_ctrlCs (s : State) : (drawLatency s).ctrlCs = s.ctrlCs := rfl
@[simp] theorem drawLatency_ctrlLang (s : State) : (drawLatency s).ctrlLang = s.ctrlLang := rfl
@[simp] theorem drawLatency_busy (s : State) : (drawLatency s).busy = s.busy := rfl
@[simp] theorem drawLatency_done (s : State) : (drawLatency s).done = s.done := rfl
@[simp] theorem drawLatency_err (s : State) : (drawLatency s).err = s.err := rfl
@[simp] theorem drawLatency_ckv (s : State) : (drawLatency s).ckv = s.ckv := rfl
@[simp] theorem drawLatency_found (s : State) : (drawLatency s).found = s.found := rfl
@[simp] theorem drawLatency_ovr (s : State) : (drawLatency s).ovr = s.ovr := rfl
@[simp] theorem drawLatency_ecode (s : State) : (drawLatency s).ecode = s.ecode := rfl
@[simp] theorem drawLatency_cmdq (s : State) : (drawLatency s).cmdq = s.cmdq := rfl
@[simp] theorem drawLatency_indexIdx (s : State) : (drawLatency s).indexIdx = s.indexIdx := rfl
@[simp] theorem drawLatency_cksumVal (s : State) : (drawLatency s).cksumVal = s.cksumVal := rfl
@[simp] theorem drawLatency_cksumLen (s : State) : (drawLatency s).cksumLen = s.cksumLen := rfl
@[simp] theorem drawLatency_errPos (s : State) : (drawLatency s).errPos = s.errPos := rfl
@[simp] theorem drawLatency_winLen (s : State) : (drawLatency s).winLen = s.winLen := rfl
@[simp] theorem drawLatency_win (s : State) : (drawLatency s).win = s.win := rfl
@[simp] theorem drawLatency_woutLen (s : State) : (drawLatency s).woutLen = s.woutLen := rfl
@[simp] theorem drawLatency_wout (s : State) : (drawLatency s).wout = s.wout := rfl
@[simp] theorem drawLatency_buf (s : State) : (drawLatency s).buf = s.buf := rfl
@[simp] theorem drawLatency_dig (s : State) : (drawLatency s).dig = s.dig := rfl
@[simp] theorem drawLatency_resetLine (s : State) : (drawLatency s).resetLine = s.resetLine := rfl
@[simp] theorem drawLatency_script (s : State) : (drawLatency s).script = s.script := rfl
@[simp] theorem drawLatency_responses (s : State) : (drawLatency s).responses = s.responses := rfl

/-! ### `issue` -/

@[simp] theorem issue_ctrlCs (v : Word) (s : State) : (issue v s).ctrlCs = s.ctrlCs := drawLatency_ctrlCs (latch v s)
@[simp] theorem issue_ctrlLang (v : Word) (s : State) : (issue v s).ctrlLang = s.ctrlLang := drawLatency_ctrlLang (latch v s)
@[simp] theorem issue_busy (v : Word) (s : State) : (issue v s).busy = true := drawLatency_busy (latch v s)
@[simp] theorem issue_done (v : Word) (s : State) : (issue v s).done = false := drawLatency_done (latch v s)
@[simp] theorem issue_err (v : Word) (s : State) : (issue v s).err = false := drawLatency_err (latch v s)
@[simp] theorem issue_ckv (v : Word) (s : State) : (issue v s).ckv = s.ckv := drawLatency_ckv (latch v s)
@[simp] theorem issue_found (v : Word) (s : State) : (issue v s).found = s.found := drawLatency_found (latch v s)
@[simp] theorem issue_ovr (v : Word) (s : State) : (issue v s).ovr = s.ovr := drawLatency_ovr (latch v s)
@[simp] theorem issue_ecode (v : Word) (s : State) : (issue v s).ecode = 0#4 := drawLatency_ecode (latch v s)
@[simp] theorem issue_cmdq (v : Word) (s : State) : (issue v s).cmdq = some v := drawLatency_cmdq (latch v s)
@[simp] theorem issue_indexIdx (v : Word) (s : State) : (issue v s).indexIdx = s.indexIdx := drawLatency_indexIdx (latch v s)
@[simp] theorem issue_cksumVal (v : Word) (s : State) : (issue v s).cksumVal = s.cksumVal := drawLatency_cksumVal (latch v s)
@[simp] theorem issue_cksumLen (v : Word) (s : State) : (issue v s).cksumLen = s.cksumLen := drawLatency_cksumLen (latch v s)
@[simp] theorem issue_errPos (v : Word) (s : State) : (issue v s).errPos = s.errPos := drawLatency_errPos (latch v s)
@[simp] theorem issue_winLen (v : Word) (s : State) : (issue v s).winLen = s.winLen := drawLatency_winLen (latch v s)
@[simp] theorem issue_win (v : Word) (s : State) : (issue v s).win = s.win := drawLatency_win (latch v s)
@[simp] theorem issue_woutLen (v : Word) (s : State) : (issue v s).woutLen = s.woutLen := drawLatency_woutLen (latch v s)
@[simp] theorem issue_wout (v : Word) (s : State) : (issue v s).wout = s.wout := drawLatency_wout (latch v s)
@[simp] theorem issue_buf (v : Word) (s : State) : (issue v s).buf = s.buf := drawLatency_buf (latch v s)
@[simp] theorem issue_dig (v : Word) (s : State) : (issue v s).dig = s.dig := drawLatency_dig (latch v s)
@[simp] theorem issue_resetLine (v : Word) (s : State) : (issue v s).resetLine = s.resetLine := drawLatency_resetLine (latch v s)
@[simp] theorem issue_script (v : Word) (s : State) : (issue v s).script = s.script := drawLatency_script (latch v s)
@[simp] theorem issue_responses (v : Word) (s : State) : (issue v s).responses = s.responses := drawLatency_responses (latch v s)

/-! ### `resetBlock` -/

@[simp] theorem resetBlock_ctrlCs (s : State) : (resetBlock s).ctrlCs = State.reset.ctrlCs := rfl
@[simp] theorem resetBlock_ctrlLang (s : State) : (resetBlock s).ctrlLang = State.reset.ctrlLang := rfl
@[simp] theorem resetBlock_busy (s : State) : (resetBlock s).busy = State.reset.busy := rfl
@[simp] theorem resetBlock_done (s : State) : (resetBlock s).done = State.reset.done := rfl
@[simp] theorem resetBlock_err (s : State) : (resetBlock s).err = State.reset.err := rfl
@[simp] theorem resetBlock_ckv (s : State) : (resetBlock s).ckv = State.reset.ckv := rfl
@[simp] theorem resetBlock_found (s : State) : (resetBlock s).found = State.reset.found := rfl
@[simp] theorem resetBlock_ovr (s : State) : (resetBlock s).ovr = State.reset.ovr := rfl
@[simp] theorem resetBlock_ecode (s : State) : (resetBlock s).ecode = State.reset.ecode := rfl
@[simp] theorem resetBlock_cmdq (s : State) : (resetBlock s).cmdq = State.reset.cmdq := rfl
@[simp] theorem resetBlock_indexIdx (s : State) : (resetBlock s).indexIdx = State.reset.indexIdx := rfl
@[simp] theorem resetBlock_cksumVal (s : State) : (resetBlock s).cksumVal = State.reset.cksumVal := rfl
@[simp] theorem resetBlock_cksumLen (s : State) : (resetBlock s).cksumLen = State.reset.cksumLen := rfl
@[simp] theorem resetBlock_errPos (s : State) : (resetBlock s).errPos = State.reset.errPos := rfl
@[simp] theorem resetBlock_winLen (s : State) : (resetBlock s).winLen = State.reset.winLen := rfl
@[simp] theorem resetBlock_win (s : State) : (resetBlock s).win = State.reset.win := rfl
@[simp] theorem resetBlock_woutLen (s : State) : (resetBlock s).woutLen = State.reset.woutLen := rfl
@[simp] theorem resetBlock_wout (s : State) : (resetBlock s).wout = State.reset.wout := rfl
@[simp] theorem resetBlock_buf (s : State) : (resetBlock s).buf = State.reset.buf := rfl
@[simp] theorem resetBlock_dig (s : State) : (resetBlock s).dig = State.reset.dig := rfl
@[simp] theorem resetBlock_resetLine (s : State) : (resetBlock s).resetLine = s.resetLine := rfl
@[simp] theorem resetBlock_script (s : State) : (resetBlock s).script = s.script := rfl
@[simp] theorem resetBlock_responses (s : State) : (resetBlock s).responses = s.responses := rfl
@[simp] theorem resetBlock_delay (s : State) : (resetBlock s).delay = s.delay := rfl
@[simp] theorem resetBlock_delays (s : State) : (resetBlock s).delays = s.delays := rfl
@[simp] theorem resetBlock_draws (s : State) : (resetBlock s).draws = s.draws := rfl

/-! ### `elapse` -/

@[simp] theorem elapse_ctrlCs (s : State) : (elapse s).ctrlCs = s.ctrlCs := rfl
@[simp] theorem elapse_ctrlLang (s : State) : (elapse s).ctrlLang = s.ctrlLang := rfl
@[simp] theorem elapse_busy (s : State) : (elapse s).busy = s.busy := rfl
@[simp] theorem elapse_done (s : State) : (elapse s).done = s.done := rfl
@[simp] theorem elapse_err (s : State) : (elapse s).err = s.err := rfl
@[simp] theorem elapse_ckv (s : State) : (elapse s).ckv = s.ckv := rfl
@[simp] theorem elapse_found (s : State) : (elapse s).found = s.found := rfl
@[simp] theorem elapse_ovr (s : State) : (elapse s).ovr = s.ovr := rfl
@[simp] theorem elapse_ecode (s : State) : (elapse s).ecode = s.ecode := rfl
@[simp] theorem elapse_cmdq (s : State) : (elapse s).cmdq = s.cmdq := rfl
@[simp] theorem elapse_indexIdx (s : State) : (elapse s).indexIdx = s.indexIdx := rfl
@[simp] theorem elapse_cksumVal (s : State) : (elapse s).cksumVal = s.cksumVal := rfl
@[simp] theorem elapse_cksumLen (s : State) : (elapse s).cksumLen = s.cksumLen := rfl
@[simp] theorem elapse_errPos (s : State) : (elapse s).errPos = s.errPos := rfl
@[simp] theorem elapse_winLen (s : State) : (elapse s).winLen = s.winLen := rfl
@[simp] theorem elapse_win (s : State) : (elapse s).win = s.win := rfl
@[simp] theorem elapse_woutLen (s : State) : (elapse s).woutLen = s.woutLen := rfl
@[simp] theorem elapse_wout (s : State) : (elapse s).wout = s.wout := rfl
@[simp] theorem elapse_buf (s : State) : (elapse s).buf = s.buf := rfl
@[simp] theorem elapse_dig (s : State) : (elapse s).dig = s.dig := rfl
@[simp] theorem elapse_resetLine (s : State) : (elapse s).resetLine = s.resetLine := rfl
@[simp] theorem elapse_script (s : State) : (elapse s).script = s.script := rfl
@[simp] theorem elapse_responses (s : State) : (elapse s).responses = s.responses := rfl
@[simp] theorem elapse_delays (s : State) : (elapse s).delays = s.delays := rfl
@[simp] theorem elapse_draws (s : State) : (elapse s).draws = s.draws := rfl

/-! ### `recordRead` -/

@[simp] theorem recordRead_ctrlCs (off : Offset) (e : Option Word) (s : State) : (recordRead off e s).ctrlCs = s.ctrlCs := rfl
@[simp] theorem recordRead_ctrlLang (off : Offset) (e : Option Word) (s : State) : (recordRead off e s).ctrlLang = s.ctrlLang := rfl
@[simp] theorem recordRead_busy (off : Offset) (e : Option Word) (s : State) : (recordRead off e s).busy = s.busy := rfl
@[simp] theorem recordRead_done (off : Offset) (e : Option Word) (s : State) : (recordRead off e s).done = s.done := rfl
@[simp] theorem recordRead_err (off : Offset) (e : Option Word) (s : State) : (recordRead off e s).err = s.err := rfl
@[simp] theorem recordRead_ckv (off : Offset) (e : Option Word) (s : State) : (recordRead off e s).ckv = s.ckv := rfl
@[simp] theorem recordRead_found (off : Offset) (e : Option Word) (s : State) : (recordRead off e s).found = s.found := rfl
@[simp] theorem recordRead_ovr (off : Offset) (e : Option Word) (s : State) : (recordRead off e s).ovr = s.ovr := rfl
@[simp] theorem recordRead_ecode (off : Offset) (e : Option Word) (s : State) : (recordRead off e s).ecode = s.ecode := rfl
@[simp] theorem recordRead_cmdq (off : Offset) (e : Option Word) (s : State) : (recordRead off e s).cmdq = s.cmdq := rfl
@[simp] theorem recordRead_indexIdx (off : Offset) (e : Option Word) (s : State) : (recordRead off e s).indexIdx = s.indexIdx := rfl
@[simp] theorem recordRead_cksumVal (off : Offset) (e : Option Word) (s : State) : (recordRead off e s).cksumVal = s.cksumVal := rfl
@[simp] theorem recordRead_cksumLen (off : Offset) (e : Option Word) (s : State) : (recordRead off e s).cksumLen = s.cksumLen := rfl
@[simp] theorem recordRead_errPos (off : Offset) (e : Option Word) (s : State) : (recordRead off e s).errPos = s.errPos := rfl
@[simp] theorem recordRead_winLen (off : Offset) (e : Option Word) (s : State) : (recordRead off e s).winLen = s.winLen := rfl
@[simp] theorem recordRead_win (off : Offset) (e : Option Word) (s : State) : (recordRead off e s).win = s.win := rfl
@[simp] theorem recordRead_woutLen (off : Offset) (e : Option Word) (s : State) : (recordRead off e s).woutLen = s.woutLen := rfl
@[simp] theorem recordRead_wout (off : Offset) (e : Option Word) (s : State) : (recordRead off e s).wout = s.wout := rfl
@[simp] theorem recordRead_buf (off : Offset) (e : Option Word) (s : State) : (recordRead off e s).buf = s.buf := rfl
@[simp] theorem recordRead_dig (off : Offset) (e : Option Word) (s : State) : (recordRead off e s).dig = s.dig := rfl
@[simp] theorem recordRead_resetLine (off : Offset) (e : Option Word) (s : State) : (recordRead off e s).resetLine = s.resetLine := rfl
@[simp] theorem recordRead_script (off : Offset) (e : Option Word) (s : State) : (recordRead off e s).script = s.script := rfl
@[simp] theorem recordRead_responses (off : Offset) (e : Option Word) (s : State) : (recordRead off e s).responses = s.responses ++ [⟨off, busReadValue off s, e⟩] := rfl
@[simp] theorem recordRead_delay (off : Offset) (e : Option Word) (s : State) : (recordRead off e s).delay = s.delay := rfl
@[simp] theorem recordRead_delays (off : Offset) (e : Option Word) (s : State) : (recordRead off e s).delays = s.delays := rfl
@[simp] theorem recordRead_draws (off : Offset) (e : Option Word) (s : State) : (recordRead off e s).draws = if readIsDraw (regAt off) s then s.draws + 1 else s.draws := rfl

/-! ### `popScript` -/

@[simp] theorem popScript_ctrlCs (s : State) : (popScript s).ctrlCs = s.ctrlCs := rfl
@[simp] theorem popScript_ctrlLang (s : State) : (popScript s).ctrlLang = s.ctrlLang := rfl
@[simp] theorem popScript_busy (s : State) : (popScript s).busy = s.busy := rfl
@[simp] theorem popScript_done (s : State) : (popScript s).done = s.done := rfl
@[simp] theorem popScript_err (s : State) : (popScript s).err = s.err := rfl
@[simp] theorem popScript_ckv (s : State) : (popScript s).ckv = s.ckv := rfl
@[simp] theorem popScript_found (s : State) : (popScript s).found = s.found := rfl
@[simp] theorem popScript_ovr (s : State) : (popScript s).ovr = s.ovr := rfl
@[simp] theorem popScript_ecode (s : State) : (popScript s).ecode = s.ecode := rfl
@[simp] theorem popScript_cmdq (s : State) : (popScript s).cmdq = s.cmdq := rfl
@[simp] theorem popScript_indexIdx (s : State) : (popScript s).indexIdx = s.indexIdx := rfl
@[simp] theorem popScript_cksumVal (s : State) : (popScript s).cksumVal = s.cksumVal := rfl
@[simp] theorem popScript_cksumLen (s : State) : (popScript s).cksumLen = s.cksumLen := rfl
@[simp] theorem popScript_errPos (s : State) : (popScript s).errPos = s.errPos := rfl
@[simp] theorem popScript_winLen (s : State) : (popScript s).winLen = s.winLen := rfl
@[simp] theorem popScript_win (s : State) : (popScript s).win = s.win := rfl
@[simp] theorem popScript_woutLen (s : State) : (popScript s).woutLen = s.woutLen := rfl
@[simp] theorem popScript_wout (s : State) : (popScript s).wout = s.wout := rfl
@[simp] theorem popScript_buf (s : State) : (popScript s).buf = s.buf := rfl
@[simp] theorem popScript_dig (s : State) : (popScript s).dig = s.dig := rfl
@[simp] theorem popScript_resetLine (s : State) : (popScript s).resetLine = s.resetLine := rfl
@[simp] theorem popScript_script (s : State) : (popScript s).script = s.script.tail := rfl
@[simp] theorem popScript_responses (s : State) : (popScript s).responses = s.responses := rfl
@[simp] theorem popScript_delay (s : State) : (popScript s).delay = s.delay := rfl
@[simp] theorem popScript_delays (s : State) : (popScript s).delays = s.delays := rfl
@[simp] theorem popScript_draws (s : State) : (popScript s).draws = s.draws := rfl

@[simp] theorem elapse_delay (s : State) : (elapse s).delay = if s.busy then s.delay - 1 else s.delay :=
  rfl

end Sys2Proof.Machine
end

