-- ==== Sys2Proof/Laws/Step.lean ====
section
/-! SUPPORT. What each shared operation and the step can do, said once: the later proofs split cases by these lemmas instead of
unfolding the step. -/

namespace Sys2Proof.Machine

/-! ## Ending a command -/

/-- A command's end is always a next state: the one its pseudocode left, with `finish`'s fields (40_lifecycle.md R80). -/
theorem endCommand_eq (p : State × Result) : endCommand p = .next (finish p.2 p.1) := rfl

/-- The state a command's pseudocode leaves and how it ended, before `finish`. -/
def effectOf (i : Instr) (s : State) : State × Result :=
  match i with
  | .nop => (s, .ok)
  | .checksum => checksumEffect s
  | .extract k => extractEffect k s
  | .wordAt idx => wordAtEffect idx s
  | .indexOf p => indexOfEffect p s
  | .begin n => beginEffect n s
  | .pack k idx => packEffect k idx s
  | .verify => verifyEffect s
  | .wipe => (wipeRegisters s, .ok)

/-- Performing a command answers a next state on every path. -/
theorem exec_eq (i : Instr) (s : State) : exec i s = .next (finish (effectOf i s).2 (effectOf i s).1) := by
  cases i <;> rfl

/-- The state a performed command leaves. -/
theorem exec_next {i : Instr} {s t : State} (h : exec i s = .next t) : t = finish (effectOf i s).2 (effectOf i s).1 := by
  rw [exec_eq] at h
  exact (Host.Outcome.next.inj h).symm

/-! ## The engine's step -/

/-- What `perform` can answer: the meaning of the latched command, or the report of an illegal word, or nothing at all where
no word is latched. -/
theorem perform_next {s t : State} (h : perform s = .next t) :
    ∃ w, s.cmdq = some w ∧
      ((∃ i, decode w = .ok i ∧ exec i s = .next t) ∨
        ∃ e, decode w = .error e ∧ t = finish (.error .illegalCommand) s) := by
  unfold perform at h
  split at h
  · rename_i w hw
    refine ⟨w, hw, ?_⟩
    unfold performWord at h
    split at h
    · rename_i i hi
      exact .inl ⟨i, hi, h⟩
    · rename_i e he
      exact .inr ⟨e, he, (Host.Outcome.next.inj h).symm⟩
  · cases h

/-! ## The host's step -/

/-- An access is accepted only when reset is not asserted, its target is in the window, and it is 32 bits wide and aligned. -/
theorem acceptAccess_next {t : Target} {w : Width} {s : State} {off : Offset} (h : acceptAccess t w s = .next off) :
    s.resetLine = false ∧ targetOffset t = some off ∧ w = .w32 ∧ off.toNat % 4 = 0 := by
  unfold acceptAccess at h
  split at h
  · cases h
  · rename_i hr
    split at h
    · cases h
    · rename_i o ho
      split at h
      · rename_i hw
        split at h
        · rename_i ha
          cases h
          exact ⟨by simpa using hr, ho, hw, ha⟩
        · cases h
      · cases h

/-- An aligned 32-bit access by offset is accepted while reset is not asserted. -/
theorem acceptAccess_offset {off : Offset} {s : State} (hr : s.resetLine = false) (ha : off.toNat % 4 = 0) :
    acceptAccess (.offset off) .w32 s = .next off := by simp [acceptAccess, hr, targetOffset, ha]

/-- The host's step for an accepted write by offset. -/
theorem hostStep_write {off : Offset} {v : Word} {s : State} (hr : s.resetLine = false) (ha : off.toNat % 4 = 0) :
    hostStep (.write (.offset off) .w32 v) s = .next (popScript (busWrite off v (elapse s))) := by
  simp only [hostStep, acceptAccess_offset hr ha]

/-- The host's step for an accepted read by offset. -/
theorem hostStep_read {off : Offset} {e : Option Word} {s : State} (hr : s.resetLine = false) (ha : off.toNat % 4 = 0) :
    hostStep (.read (.offset off) .w32 e) s = .next (popScript (elapse (recordRead off e s))) := by
  simp only [hostStep, acceptAccess_offset hr ha]

/-- The host's step for a poll. -/
theorem hostStep_poll {s : State} (hr : s.resetLine = false) :
    hostStep .poll s = .next (pollOnce (regOffset .status) s) := by
  simp only [hostStep, acceptAccess_offset (off := regOffset .status) hr rfl]

/-- What a host step can answer, by operation. -/
theorem hostStep_next {op : HostOp} {s t : State} (h : hostStep op s = .next t) :
    (∃ tgt w e off, op = .read tgt w e ∧ acceptAccess tgt w s = .next off ∧ t = popScript (elapse (recordRead off e s))) ∨
    (∃ tgt w v off, op = .write tgt w v ∧ acceptAccess tgt w s = .next off ∧ t = popScript (busWrite off v (elapse s))) ∨
    (op = .poll ∧ s.resetLine = false ∧ t = pollOnce (regOffset .status) s) ∨
    (op = .assertReset ∧ t = popScript { resetBlock s with resetLine := true }) ∨
    (op = .releaseReset ∧ t = popScript { s with resetLine := false }) := by
  cases op with
  | read tgt w e =>
    simp only [hostStep] at h
    split at h
    · rename_i off ho
      exact .inl ⟨tgt, w, e, off, rfl, ho, (Host.Outcome.next.inj h).symm⟩
    · cases h
    · cases h
  | write tgt w v =>
    simp only [hostStep] at h
    split at h
    · rename_i off ho
      exact .inr (.inl ⟨tgt, w, v, off, rfl, ho, (Host.Outcome.next.inj h).symm⟩)
    · cases h
    · cases h
  | poll =>
    simp only [hostStep] at h
    split at h
    · rename_i off ho
      obtain ⟨hr, htgt, -, -⟩ := acceptAccess_next ho
      cases htgt
      exact .inr (.inr (.inl ⟨rfl, hr, (Host.Outcome.next.inj h).symm⟩))
    · cases h
    · cases h
  | assertReset => exact .inr (.inr (.inr (.inl ⟨rfl, (Host.Outcome.next.inj h).symm⟩)))
  | releaseReset => exact .inr (.inr (.inr (.inr ⟨rfl, (Host.Outcome.next.inj h).symm⟩)))

/-- What a write can do to the block: dropped, with `OVR` set, or the write of the register addressed (40_lifecycle.md R74,
R79). -/
theorem busWrite_cases (off : Offset) (v : Word) (s : State) :
    (s.busy = true ∧ regAt off ≠ .status ∧ busWrite off v s = { s with ovr := true }) ∨
    ((s.busy = false ∨ regAt off = .status) ∧ busWrite off v s = writeReg (regAt off) v s) := by
  unfold busWrite
  by_cases hb : s.busy = true <;> by_cases hr : regAt off = .status <;> simp [hb, hr]

/-! ## The step -/

/-- What a step can do: the engine performs, or the host takes the first operation of its script, or nothing moves. -/
theorem step_next {s t : State} (h : step s = .next t) :
    (engineMovesNext s = true ∧ perform s = .next t) ∨
    (engineMovesNext s = false ∧ ∃ op, s.script.head? = some op ∧ hostStep op s = .next t) ∨
    (engineMovesNext s = false ∧ s.script = [] ∧ t = s) := by
  unfold step at h
  split at h
  · rename_i he
    exact .inl ⟨he, h⟩
  · rename_i he
    have he' : engineMovesNext s = false := by simpa using he
    split at h
    · rename_i op rest hs
      exact .inr (.inl ⟨he', op, by simp [hs], h⟩)
    · rename_i hs
      exact .inr (.inr ⟨he', hs, (Host.Outcome.next.inj h).symm⟩)

/-- The engine moves next exactly when a command is in flight whose latency has passed or with which the host does nothing
(40_lifecycle.md R77; log 2). -/
theorem engineMovesNext_iff (s : State) :
    engineMovesNext s = true ↔ s.busy = true ∧ (s.delay = 0 ∨ s.script = []) := by
  simp [engineMovesNext]

/-- The engine's step, when it moves next. -/
theorem step_engine {s : State} (h : engineMovesNext s = true) : step s = perform s := by simp [step, h]

/-- The host's step, when the engine does not move next. -/
theorem step_host {s : State} {op : HostOp} {rest : List HostOp} (h : engineMovesNext s = false) (hs : s.script = op :: rest) :
    step s = hostStep op s := by simp [step, h, hs]

end Sys2Proof.Machine
end

