-- ==== Sys2Proof/Laws/Host.lean ====
section
/-! SUPPORT. The step that takes one given host operation first, as the claims write it. -/

namespace Sys2Proof.Safety

open Sys2Proof.Machine

/-- The host moves next: the engine's step is not enabled, or the latency of the command in flight has not passed. -/
theorem stepWith_eq {op : HostOp} {s : State} (h : s.busy = false ∨ s.delay ≠ 0) :
    stepWith op s = hostStep op { s with script := op :: s.script } := by
  refine step_host (rest := s.script) ?_ rfl
  rcases h with h | h <;> simp [engineMovesNext, h]

/-- The step of an accepted write by offset. -/
theorem stepWith_write {off : Offset} {v : Word} {s : State} (h : s.busy = false ∨ s.delay ≠ 0) (hr : s.resetLine = false)
    (ha : off.toNat % 4 = 0) :
    stepWith (hostWrite off v) s =
      .next (popScript (busWrite off v (elapse { s with script := hostWrite off v :: s.script }))) := by
  rw [stepWith_eq h]
  exact hostStep_write hr ha

/-- The step of an accepted read by offset. -/
theorem stepWith_read {off : Offset} {s : State} (h : s.busy = false ∨ s.delay ≠ 0) (hr : s.resetLine = false)
    (ha : off.toNat % 4 = 0) :
    stepWith (hostRead off) s =
      .next (popScript (elapse (recordRead off none { s with script := hostRead off :: s.script }))) := by
  rw [stepWith_eq h]
  exact hostStep_read hr ha

end Sys2Proof.Safety
end

