-- ==== Sys2Proof/Laws/PerInstr.lean ====
section
/-! SUPPORT. The family of statements about every instruction as syntax: its word's fields are those of its row, and they are
well-formed. -/

namespace Sys2Proof.Laws.EncodedFields

/-- The fields of i's word are i's opcode and operands, and obey the zero-field rule (30_encoding.md R64, R65). -/
def Statement (i : Instr) : Prop :=
  fieldsOf (encode i) = encodeFields i ∧ (encodeFields i).wellFormed = true

theorem nop : Statement .nop := ⟨fieldsOf_assemble _, by decide⟩
theorem checksum : Statement .checksum := ⟨fieldsOf_assemble _, by decide⟩
theorem extract (k : BitVec 5) : Statement (.extract k) := ⟨fieldsOf_assemble _, by simp [encodeFields, Fields.wellFormed, usesK]⟩
theorem wordAt (i : WordIndex) : Statement (.wordAt i) := ⟨fieldsOf_assemble _, by simp [encodeFields, Fields.wellFormed, usesIdx]⟩
theorem indexOf (p : BitVec 5) : Statement (.indexOf p) := ⟨fieldsOf_assemble _, by simp [encodeFields, Fields.wellFormed, usesK]⟩
theorem begin (n : BitVec 5) : Statement (.begin n) := ⟨fieldsOf_assemble _, by simp [encodeFields, Fields.wellFormed, usesK]⟩
theorem pack (k : BitVec 5) (i : WordIndex) : Statement (.pack k i) :=
  ⟨fieldsOf_assemble _, by simp [encodeFields, Fields.wellFormed, usesK, usesIdx]⟩
theorem verify : Statement .verify := ⟨fieldsOf_assemble _, by decide⟩
theorem wipe : Statement .wipe := ⟨fieldsOf_assemble _, by decide⟩

end Sys2Proof.Laws.EncodedFields
end

