-- ==== Sys2Proof/Laws/Sha256.lean ====
section
/-! SUPPORT. The small lemmas of SHA-256: rotation, lengths, the rounds and the blocks one at a time. -/

namespace Sys2Proof.Machine

/-- `ROTR^n` is rotation right (41_checksum.md R86). -/
theorem rotr_eq_rotateRight {n : Nat} (h : n < 32) (x : Word) : rotr n x = x.rotateRight n := by
  rw [BitVec.rotateRight, Nat.mod_eq_of_lt h]
  rfl

@[simp] theorem wordBytes_length (w : Word) : (wordBytes w).length = 4 := rfl

/-- A digest is 32 bytes (41_checksum.md R94). -/
@[simp] theorem sha256_length (m : List Byte) : (sha256 m).length = 32 := unpackBytes_length _

@[simp] theorem shaBlockWords_length (padded : List Byte) (j : Nat) : (shaBlockWords padded j).length = 16 := by
  simp [shaBlockWords]

/-- The words of a block are its bytes, four at a time (41_checksum.md R91). -/
theorem shaBlockWords_getD (padded : List Byte) (j : Nat) {t : Nat} (h : t < 16) :
    (shaBlockWords padded j).getD t 0#32 = packWord padded (16 * j + t) := by
  simp [shaBlockWords, h]

@[simp] theorem extendSchedule_length (n : Nat) (ws : List Word) : (extendSchedule n ws).length = n + ws.length := by
  induction n generalizing ws with
  | zero => simp [extendSchedule]
  | succ n ih => rw [extendSchedule, ih]; simp only [List.length_cons]; omega

/-- The schedule of a block of 16 words has 64 (41_checksum.md R92). -/
theorem messageSchedule_length {block : List Word} (h : block.length = 16) : (messageSchedule block).length = 64 := by
  simp [messageSchedule, h]

@[simp] theorem roundConstants_length : roundConstants.length = 64 := rfl

/-- The rounds of a schedule cut in two are the rounds of its parts, in order (41_checksum.md R93). -/
theorem shaRounds_append (l r : List (Word × Word)) (x : Working) :
    shaRounds (l ++ r) x = shaRounds r (shaRounds l x) := by
  induction l generalizing x with
  | nil => rfl
  | cons p l ih => exact ih _

end Sys2Proof.Machine
end

