-- ==== Sys2Proof/Laws/Stream.lean ====
section
/-! SUPPORT. The bit stream: what slices read and puts write, bit by bit, and what follows for the parts of the bit buffer. -/

namespace Sys2Proof.Machine

/-- The bits of a slice are the stream bits from its start (00_scope.md R12). -/
theorem streamSlice_getMsbD (b : BitBuffer) (p n t : Nat) (h : p + n ≤ 264) :
    (streamSlice b p n).getMsbD t = (decide (t < n) && b.getMsbD (p + t)) := by
  simp only [streamSlice, BitVec.getMsbD_extractLsb']
  by_cases ht : t < n
  · have e : 264 - (264 - p - n + n - t) = p + t := by omega
    have e' : 264 - p - n + n - t ≤ 264 := by omega
    rw [e]; simp [ht, e']
  · simp [ht]

/-- After a put the stream bits in its range are the value's, and every other is as before. -/
theorem streamPut_getMsbD {n : Nat} (b : BitBuffer) (p : Nat) (v : BitVec n) (j : Nat) (h : p + n ≤ 264) (hj : j < 264) :
    (streamPut b p v).getMsbD j = if p ≤ j ∧ j < p + n then v.getMsbD (j - p) else b.getMsbD j := by
  have lo : 264 - 1 - j < 264 := by omega
  simp only [streamPut, BitVec.getMsbD_eq_getLsbD, hj, decide_true, Bool.true_and, BitVec.getLsbD_or, BitVec.getLsbD_and,
    BitVec.getLsbD_not, BitVec.getLsbD_shiftLeft, BitVec.getLsbD_setWidth, BitVec.getLsbD_allOnes, lo]
  by_cases hp : p ≤ j ∧ j < p + n
  · have h1 : ¬ 264 - 1 - j < 264 - p - n := by omega
    have h2 : 264 - 1 - j - (264 - p - n) < 264 := by omega
    have h3 : 264 - 1 - j - (264 - p - n) < n := by omega
    have h4 : j - p < n := by omega
    have h5 : 264 - 1 - j - (264 - p - n) = n - 1 - (j - p) := by omega
    simp [hp, h1, h2, h3, h4, ← h5]
  · rw [if_neg hp]
    rcases Nat.lt_or_ge j p with hlt | hge
    · have h1 : ¬ 264 - 1 - j < 264 - p - n := by omega
      have h3 : ¬ 264 - 1 - j - (264 - p - n) < n := by omega
      have h6 : v.getLsbD (264 - 1 - j - (264 - p - n)) = false := BitVec.getLsbD_of_ge _ _ (by omega)
      simp only [h6, h1, h3]; simp
    · have h1 : 264 - 1 - j < 264 - p - n := by omega
      simp [h1]

/-- A slice reads back what was put there. -/
theorem streamSlice_put_same {n : Nat} (b : BitBuffer) (p : Nat) (v : BitVec n) (h : p + n ≤ 264) :
    streamSlice (streamPut b p v) p n = v := by
  refine BitVec.eq_of_getMsbD_eq fun t ht => ?_
  rw [streamSlice_getMsbD _ _ _ _ h, streamPut_getMsbD _ _ _ _ h (by omega)]
  simp [ht]

/-- A put leaves every slice outside its range alone. -/
theorem streamSlice_put_disjoint {n : Nat} (b : BitBuffer) (p : Nat) (v : BitVec n) (q m : Nat) (h : p + n ≤ 264)
    (hq : q + m ≤ 264) (d : q + m ≤ p ∨ p + n ≤ q) : streamSlice (streamPut b p v) q m = streamSlice b q m := by
  refine BitVec.eq_of_getMsbD_eq fun t ht => ?_
  rw [streamSlice_getMsbD _ _ _ _ hq, streamSlice_getMsbD _ _ _ _ hq, streamPut_getMsbD _ _ _ _ h (by omega),
    if_neg (by omega)]

/-- Putting back what a slice reads changes nothing. -/
theorem streamPut_slice_self (b : BitBuffer) (p n : Nat) (h : p + n ≤ 264) : streamPut b p (streamSlice b p n) = b := by
  refine BitVec.eq_of_getMsbD_eq fun j hj => ?_
  rw [streamPut_getMsbD _ _ _ _ h hj]
  split
  · rename_i hp
    rw [streamSlice_getMsbD _ _ _ _ h]
    have : p + (j - p) = j := by omega
    have : j - p < n := by omega
    simp [*]
  · rfl

/-- A group reads back what was packed into it (42_codec.md R100, R103). -/
theorem group_putGroup_same (b : BitBuffer) (k : Nat) (i : WordIndex) (h : k < 24) : group (putGroup k i b) k = i :=
  streamSlice_put_same b (11 * k) i (by omega)

/-- Packing a group leaves every other group alone: groups do not overlap (42_codec.md R100). -/
theorem group_putGroup_other (b : BitBuffer) (k l : Nat) (i : WordIndex) (hk : k < 24) (hl : l < 24) (d : l ≠ k) :
    group (putGroup k i b) l = group b l :=
  streamSlice_put_disjoint b (11 * k) i (11 * l) 11 (by omega) (by omega) (by omega)

/-- Writing the checksum bits leaves the entropy bytes alone. -/
theorem entropyBytes_putChecksumBits (cs : BitVec 4) (c : BitVec 8) (b : BitBuffer) (h : cs.toNat ≤ 8) :
    entropyBytes cs (putChecksumBits cs c b) = entropyBytes cs b := by
  refine List.map_congr_left fun j hj => ?_
  have hj' : j < 4 * cs.toNat := List.mem_range.mp hj
  exact streamSlice_put_disjoint b (entBits cs) _ (8 * j) 8 (by unfold entBits; omega) (by omega)
    (by unfold entBits; omega)

end Sys2Proof.Machine
end

