-- ==== Sys2Proof/Laws/Wordlist.lean ====
section
/-! SUPPORT. The wordlist configuration: what a well-formed table is, and what the ROM can be. -/

namespace Sys2Proof

/-- What the check of a table says (10_state.md R44 (b), (c), (d), R45). -/
theorem Config.tableOk_iff (l : LangCode) (form : List Byte → Bool) (t : WordIndex → List Byte) :
    Config.tableOk l form t = true ↔
      (∀ i j : WordIndex, t i = t j → i = j) ∧ (∀ i : WordIndex, 1 ≤ (t i).length ∧ (t i).length ≤ Config.wmax) ∧
        (∀ i : WordIndex, form (t i) = true) ∧ ∀ i : WordIndex, ∀ w ∈ Config.knownWord l i, t i = w := by
  rw [Config.tableOk, Bool.and_eq_true, Bool.and_eq_true, Bool.and_eq_true, decide_eq_true_iff, decide_eq_true_iff,
    decide_eq_true_iff, decide_eq_true_iff, and_assoc, and_assoc]

/-- The entries the spec fixes: none, or one of english's two (10_state.md R45). -/
theorem Config.knownWord_cases (l : LangCode) (i : WordIndex) :
    Config.knownWord l i = none ∨ (Config.knownWord l i = some Config.abandon ∧ i = 0#11) ∨
      (Config.knownWord l i = some Config.about ∧ i = 3#11) := by
  unfold Config.knownWord
  split_ifs <;> simp [*]

@[simp] theorem Config.letters_length (i : WordIndex) : (Config.letters i).length = 3 := rfl

/-- Zero-extending to a byte loses no bit. -/
theorem setWidth_byte_inj {n : Nat} (hn : n ≤ 8) {a b : BitVec n} (h : a.setWidth 8 = b.setWidth 8) : a = b := by
  have hp : 2 ^ n ≤ 2 ^ 8 := Nat.pow_le_pow_right (by decide) hn
  have := congrArg BitVec.toNat h
  rw [BitVec.toNat_setWidth, BitVec.toNat_setWidth, Nat.mod_eq_of_lt (a.isLt.trans_le hp),
    Nat.mod_eq_of_lt (b.isLt.trans_le hp)] at this
  exact BitVec.eq_of_toNat_eq this

/-- The replacement's words are distinct. -/
theorem Config.letters_injective {i j : WordIndex} (h : Config.letters i = Config.letters j) : i = j := by
  simp only [Config.letters, List.cons.injEq, and_true, BitVec.add_right_inj] at h
  obtain ⟨h1, h2, h3⟩ := h
  have parts : ∀ k : WordIndex, k = k.extractLsb' 8 3 ++ k.extractLsb' 4 4 ++ k.extractLsb' 0 4 := by decide +kernel
  rw [parts i, parts j, setWidth_byte_inj (by decide) h1, setWidth_byte_inj (by decide) h2,
    setWidth_byte_inj (by decide) h3]

/-- The replacement is well-formed in english's byte form, whichever language's configuration it stands for. -/
theorem Config.fallbackWord_ok (l : LangCode) : Config.tableOk l Config.englishForm (Config.fallbackWord l) = true := by
  have form : ∀ i, Config.englishForm (Config.letters i) = true := by decide +kernel
  rw [Config.tableOk_iff]
  refine ⟨fun i j h => ?_, fun i => ?_, fun i => ?_, fun i w hw => ?_⟩ <;> unfold Config.fallbackWord at *
  · rcases Config.knownWord_cases l i with hi | ⟨hi, ei⟩ | ⟨hi, ei⟩ <;>
      rcases Config.knownWord_cases l j with hj | ⟨hj, ej⟩ | ⟨hj, ej⟩ <;> simp only [hi, hj] at h
    · exact Config.letters_injective h
    all_goals first | exact absurd (congrArg List.length h) (by simp [Config.abandon, Config.about]) | rw [ei, ej]
  · rcases Config.knownWord_cases l i with hi | ⟨hi, -⟩ | ⟨hi, -⟩ <;>
      simp [hi, Config.abandon, Config.about, Config.wmax]
  · rcases Config.knownWord_cases l i with hi | ⟨hi, -⟩ | ⟨hi, -⟩ <;> rw [hi]
    · exact form i
    · exact (by decide : Config.englishForm Config.abandon = true)
    · exact (by decide : Config.englishForm Config.about = true)
  · rw [hw]

/-- The ROM is the configuration's table where that is well-formed, and the replacement where it is not. -/
theorem Config.rom_cases (l : LangCode) :
    (Config.rawOk l = true ∧ ∀ i, Config.rom l i = Config.wordlistRaw l i) ∨
      (Config.rawOk l = false ∧ ∀ i, Config.rom l i = Config.fallbackWord l i) := by
  cases h : Config.rawOk l with
  | true =>
    refine .inl ⟨rfl, fun i => ?_⟩
    have h' := h
    rw [Config.rawOk, Config.tableOk_iff] at h'
    obtain ⟨-, -, -, known⟩ := h'
    unfold Config.rom
    split
    · rename_i w hw
      exact (known i w hw).symm
    · simp [h]
  | false =>
    refine .inr ⟨rfl, fun i => ?_⟩
    unfold Config.rom Config.fallbackWord
    split
    · rfl
    · simp [h]

/-- English's byte form is fixed. -/
theorem Config.nativeForm_english (w : List Byte) : Config.nativeForm 0#4 w = Config.englishForm w := if_pos rfl

end Sys2Proof
end

