-- ==== Sys2Proof/Tests/Slice0.lean ====
section
/-! SUPPORT. Tests, each expected value from spec/ (the vector or rule is named beside it), and witnesses: for every statement
with hypotheses, a state and operands that meet them. -/

namespace Sys2Proof.Tests

-- One theorem at a time: many kernel evaluations at once take a thread's stack each.
set_option Elab.async false

open Sys2Proof.Machine Sys2Proof.Safety

/-! ## Helpers -/

/-- The next state of an outcome, or the reset state for a stop. -/
def after (o : Host.Outcome State Fault Refusal) : State :=
  match o with
  | .next t => t
  | .fault _ => State.reset
  | .refused _ => State.reset

/-- The state after one command. -/
def run (i : Instr) (s : State) : State := after (exec i s)

/-- The reset state with a value of `CTRL.CS`. -/
def withCs (cs : BitVec 4) : State := { State.reset with ctrlCs := cs }

/-- After V2 step 1: `CHECKSUM` of 16 zero bytes. -/
def zeroEncoded : State := run .checksum (withCs 4#4)

/-- The reset state with an input word in `WIN`. -/
def withWord (b : List Byte) : State :=
  { State.reset with winLen := BitVec.ofNat 6 b.length, win := packBytes b }

/-- The reset state with `CHECKSUM` in flight, to be performed after three host steps, and a program left. -/
def inFlight (ops : List HostOp) : State :=
  { State.reset with busy := true, cmdq := some 0x00000001#32, delay := 3, script := ops }

/-! ## Well-formedness refuses each ill-formed term (30_encoding.md R65, R66, R70) -/

theorem test_wf_unassigned_opcode : (Fields.mk 0#5 0#11 0#3 0#5 0x09#8).wellFormed = false := by decide
theorem test_wf_reserved_r2 : (Fields.mk 1#5 0#11 0#3 0#5 0x03#8).wellFormed = false := by decide
theorem test_wf_reserved_r1 : (Fields.mk 0#5 0#11 1#3 0#5 0x06#8).wellFormed = false := by decide
theorem test_wf_unused_k : (Fields.mk 0#5 0#11 0#3 1#5 0x01#8).wellFormed = false := by decide
theorem test_wf_unused_idx : (Fields.mk 0#5 1#11 0#3 0#5 0x02#8).wellFormed = false := by decide
theorem test_wf_used_fields : (Fields.mk 0#5 2047#11 0#3 31#5 0x06#8).wellFormed = true := by decide
theorem test_wf_group_too_large : (Stmt.extract 32).wellFormed = false := by decide
theorem test_wf_position_too_large : (Stmt.indexOf 32).wellFormed = false := by decide
theorem test_wf_count_too_large : (Stmt.begin 32).wellFormed = false := by decide
theorem test_wf_pack_group_too_large : (Stmt.pack 32 0).wellFormed = false := by decide
theorem test_wf_pack_index_too_large : (Stmt.pack 0 2048).wellFormed = false := by decide
theorem test_wf_index_too_large : (Stmt.wordAt 2048).wellFormed = false := by decide
theorem test_wf_string_too_long : (Stmt.setword (List.replicate 33 0x61#8)).wellFormed = false := by decide
theorem test_wf_string_longest : (Stmt.setword (List.replicate 32 0x61#8)).wellFormed = true := by decide
theorem test_wf_setbuf_empty : (Stmt.setbuf []).wellFormed = false := by decide
theorem test_wf_setbuf_too_many : (Stmt.setbuf (List.replicate 10 0#32)).wellFormed = false := by decide
theorem test_assembler_rejects : assembleProgram [.wipe, .wordAt 2048] = none := by decide

/-! ## Decoding, from the bit patterns of 30_encoding.md R64 (`R2 IDX R1 K OP` from bit 31 down) -/

theorem test_decode_nop : decode (0b00000#5 ++ 0b00000000000#11 ++ 0b000#3 ++ 0b00000#5 ++ 0b00000000#8) = .ok .nop := rfl
theorem test_decode_checksum :
    decode (0b00000#5 ++ 0b00000000000#11 ++ 0b000#3 ++ 0b00000#5 ++ 0b00000001#8) = .ok .checksum := rfl
theorem test_decode_extract :
    decode (0b00000#5 ++ 0b00000000000#11 ++ 0b000#3 ++ 0b01011#5 ++ 0b00000010#8) = .ok (.extract 11#5) := rfl
theorem test_decode_word_at :
    decode (0b00000#5 ++ 0b10000000001#11 ++ 0b000#3 ++ 0b00000#5 ++ 0b00000011#8) = .ok (.wordAt 1025#11) := rfl
theorem test_decode_index_of :
    decode (0b00000#5 ++ 0b00000000000#11 ++ 0b000#3 ++ 0b10010#5 ++ 0b00000100#8) = .ok (.indexOf 18#5) := rfl
theorem test_decode_begin :
    decode (0b00000#5 ++ 0b00000000000#11 ++ 0b000#3 ++ 0b11000#5 ++ 0b00000101#8) = .ok (.begin 24#5) := rfl
theorem test_decode_pack :
    decode (0b00000#5 ++ 0b00000000011#11 ++ 0b000#3 ++ 0b01011#5 ++ 0b00000110#8) = .ok (.pack 11#5 3#11) := rfl
theorem test_decode_verify :
    decode (0b00000#5 ++ 0b00000000000#11 ++ 0b000#3 ++ 0b00000#5 ++ 0b00000111#8) = .ok .verify := rfl
theorem test_decode_wipe : decode (0b00000#5 ++ 0b00000000000#11 ++ 0b000#3 ++ 0b00000#5 ++ 0b00001000#8) = .ok .wipe := rfl

/-- The illegal words of 95_test_vectors.md V15 and V4's last row. -/
theorem test_decode_illegal :
    ([0x00000009#32, 0x000000FF#32, 0x00000101#32, 0x00010001#32, 0x00010002#32, 0x08000003#32, 0x00002000#32,
      0x80000000#32, 0x00000B08#32, 0x00010004#32, 0x20000006#32, 0x00052006#32].all
      fun w => (decode w).toOption == none) = true := by decide

/-- `PACK` words of program P5 (95_test_vectors.md). -/
theorem test_encode_pack : encode (.pack 23#5 1891#11) = 0x07631706#32 ∧ encode (.pack 1#5 64#11) = 0x00400106#32 := by decide

theorem test_decode_table_word : decodeTableWord 32 0x07FF1706 = some (.pack 23#5 2047#11) := rfl

/-! ## The wordlist's fixed entries (10_state.md R45) -/

theorem test_rom_known : Config.rom 0#4 0#11 = Config.abandon ∧ Config.rom 0#4 3#11 = Config.about := by decide +kernel
/-- 43_wordlist.md R111, and R110's corner cases: upper case and surrounding space are another form. The witness of
CamIsTheInverseOfTheRom's last clause. -/
theorem test_english_form :
    Config.nativeForm 0#4 Config.abandon = true ∧ Config.nativeForm 0#4 [0x41#8, 0x62#8] = false ∧
    Config.nativeForm 0#4 [0x20#8, 0x61#8] = false ∧ Config.nativeForm 0#4 [0x61#8, 0x0A#8] = false ∧
    Config.nativeForm 0#4 [0xC3#8, 0xA9#8] = false := by decide +kernel

theorem test_english_supported : Config.langSupported 0#4 = true := by decide +kernel

/-! ## One command (95_test_vectors.md) -/

/-- V17 row 3: `NOP` clears an error report. -/
theorem test_nop_acknowledges : statusWord (run .nop (run (.begin 13#5) State.reset)) = 0x00000002#32 := by decide +kernel

/-- V2 step 1. -/
theorem test_checksum_zero_entropy :
    zeroEncoded.dig = #v[0x374708FF#32, 0xF7719DD5#32, 0x979EC875#32, 0xD56CD228#32, 0x6F6D3CF7#32, 0xEC317A3B#32,
      0x25632AAB#32, 0x28EC37BB#32] ∧
    busReadValue 0x14#8 zeroEncoded = 0x00000403#32 ∧ busReadValue 0x90#8 zeroEncoded = 0x30000000#32 ∧
    statusWord zeroEncoded = 0x0000000A#32 := by decide +kernel

/-- V12 row 1: only the checksum field of `BUF4` is written, the tail is kept. -/
theorem test_checksum_keeps_tail :
    let s := { withCs 4#4 with buf := 0#128 ++ 0xFFFFFFFF#32 ++ 0x12345678#32 ++ 0#72 }
    busReadValue 0x90#8 (run .checksum s) = 0x3FFFFFFF#32 ∧ busReadValue 0x94#8 (run .checksum s) = 0x12345678#32 := by
  decide +kernel

/-- P5: the digest and checksum of the 256-bit entropy 00 01 … 1F. -/
theorem test_checksum_256_bits :
    let s := { withCs 8#4 with buf := 0x000102030405060708090A0B0C0D0E0F101112131415161718191A1B1C1D1E1F#256 ++ 0#8 }
    (run .checksum s).dig[0] = 0x630DCD29#32 ∧ (run .checksum s).dig[7] = 0x1BD710DD#32 ∧
    busReadValue 0xA0#8 (run .checksum s) = 0x63000000#32 := by decide +kernel

/-- V2 steps 4 and 5. -/
theorem test_extract_last_group :
    (run (.extract 11#5) zeroEncoded).indexIdx = 3#11 ∧ statusWord (run (.extract 12#5) zeroEncoded) = 0x0000090E#32 := by
  decide +kernel

/-- V13: `NotReady` is checked before `IndexRange`, and `InvalidStrength` before both. -/
theorem test_extract_check_order :
    statusWord (run (.extract 31#5) (withCs 4#4)) = 0x00000A06#32 ∧
    statusWord (run (.extract 0#5) State.reset) = 0x00000106#32 := by decide +kernel

/-- V5 row 1. -/
theorem test_word_at_about :
    (run (.wordAt 3#11) State.reset).woutLen = 5#6 ∧
    (run (.wordAt 3#11) State.reset).wout = #v[0x61626F75#32, 0x74000000#32, 0#32, 0#32, 0#32, 0#32, 0#32, 0#32] := by
  decide +kernel

/-- V5 row 2: a later word leaves nothing of an earlier one behind. -/
theorem test_word_at_overwrites :
    (run (.wordAt 0#11) (run (.wordAt 3#11) State.reset)).wout =
      #v[0x6162616E#32, 0x646F6E00#32, 0#32, 0#32, 0#32, 0#32, 0#32, 0#32] := by decide +kernel

/-- V6 row 9 (and row 1): the position tag is not range-checked, and nothing is recorded on a hit. -/
theorem test_index_of_about :
    (run (.indexOf 31#5) (withWord Config.about)).indexIdx = 3#11 ∧
    statusWord (run (.indexOf 31#5) (withWord Config.about)) = 0x00000012#32 ∧
    (run (.indexOf 31#5) (withWord Config.about)).errPos = 0#5 := by decide +kernel

/-- V6 row 6: a length over 32 matches nothing. -/
theorem test_index_of_too_long :
    let s := { withWord Config.abandon with winLen := 33#6, indexIdx := 9#11 }
    statusWord (run (.indexOf 7#5) s) = 0x00000506#32 ∧ (run (.indexOf 7#5) s).errPos = 7#5 ∧
    (run (.indexOf 7#5) s).indexIdx = 9#11 := by decide +kernel

/-- V14, n = 24 and n = 25. -/
theorem test_begin_counts :
    let s := { withCs 5#4 with ctrlLang := 1#4, buf := 0xABCDEF01#32 ++ 0#232 }
    busReadValue 0x04#8 (run (.begin 24#5) s) = 0x00000018#32 ∧ busReadValue 0x80#8 (run (.begin 24#5) s) = 0#32 ∧
    statusWord (run (.begin 25#5) s) = 0x00000406#32 ∧ busReadValue 0x80#8 (run (.begin 25#5) s) = 0xABCDEF01#32 := by
  decide +kernel

/-- V4 rows 3 and 4: groups that cross a register. -/
theorem test_pack_crosses_registers :
    busReadValue 0x80#8 (run (.pack 2#5 2047#11) (withCs 4#4)) = 0x000003FF#32 ∧
    busReadValue 0x84#8 (run (.pack 2#5 2047#11) (withCs 4#4)) = 0x80000000#32 ∧
    busReadValue 0x9C#8 (run (.pack 23#5 2047#11) (withCs 8#4)) = 0x00000007#32 ∧
    busReadValue 0xA0#8 (run (.pack 23#5 2047#11) (withCs 8#4)) = 0xFF000000#32 := by decide +kernel

/-- V4 rows 6 and 7. -/
theorem test_pack_errors :
    statusWord (run (.pack 12#5 5#11) (withCs 4#4)) = 0x00000906#32 ∧
    statusWord (run (.pack 0#5 5#11) State.reset) = 0x00000406#32 := by decide +kernel

/-- V12 row 4. -/
theorem test_verify_accepts : statusWord (run .verify zeroEncoded) = 0x0000000A#32 ∧
    (run .verify zeroEncoded).dig = zeroEncoded.dig := by decide +kernel

/-- V12 row 5: checksum field 3 changed to 2. -/
theorem test_verify_wipes :
    let s := { zeroEncoded with buf := 0#128 ++ 0x20000000#32 ++ 0#104, ckv := false }
    statusWord (run .verify s) = 0x00000606#32 ∧ (run .verify s).buf = 0#264 ∧
    (run .verify s).dig = Vector.replicate 8 0#32 ∧ (run .verify s).cksumLen = 0#4 := by decide +kernel

/-- V17 row 2: `WIPE` keeps `CTRL` and `OVR`. -/
theorem test_wipe_keeps_ctrl :
    let s := { withCs 5#4 with ctrlLang := 1#4, ovr := true, buf := 1#32 ++ 0#232, ckv := true, found := true }
    statusWord (run .wipe s) = 0x00000022#32 ∧ busReadValue 0x04#8 (run .wipe s) = 0x00000015#32 ∧
    wiped (run .wipe s) = true := by decide +kernel

/-! ## The lifecycle (95_test_vectors.md V15, V16; each is one step) -/

/-- V15: `WIPE` with K = 11 is illegal, and nothing is wiped. -/
theorem test_illegal_wipe :
    let s := after (step (zeroEncoded.withFetchWord 32 0x00000B08))
    statusWord s = 0x0000080E#32 ∧ s.buf = zeroEncoded.buf ∧ s.dig = zeroEncoded.dig := by decide +kernel

/-- V16 step 1. -/
theorem test_issue : statusWord (after (stepWith (hostWrite 0x0C#8 0x00000001#32) State.reset)) = 0x00000001#32 := by
  decide +kernel

/-- V16 step 2: a write while busy is dropped and sets `OVR`. -/
theorem test_busy_write_dropped :
    let s := after (stepWith (hostWrite 0x80#8 0x00001234#32) (inFlight []))
    statusWord s = 0x00000021#32 ∧ s.buf = 0#264 := by decide +kernel

/-- V16 step 7. -/
theorem test_overrun_cleared :
    let s := { State.reset with done := true, err := true, ecode := 1#4, ovr := true }
    statusWord (after (stepWith (hostWrite 0x08#8 0x00000020#32) s)) = 0x00000106#32 := by decide +kernel

/-- V12 last row: `BUF8[23:0]` is reserved. -/
theorem test_buf8_reserved_bits :
    busReadValue 0xA0#8 (after (stepWith (hostWrite 0xA0#8 0xDEADBEEF#32) (withCs 8#4))) = 0xDE000000#32 := by
  decide +kernel

/-- V13: only a changed `CS` clears `CKV`. -/
theorem test_ctrl_write_and_ckv :
    (after (stepWith (hostWrite 0x04#8 0x00000014#32) zeroEncoded)).ckv = true ∧
    (after (stepWith (hostWrite 0x04#8 0x00000005#32) zeroEncoded)).ckv = false := by decide +kernel

/-- 20_memory.md R50, R51. -/
theorem test_bus_errors :
    stepWith (.read (.offset 0x08#8) .w8 none) State.reset = .fault .busErrorWidth ∧
    stepWith (hostWrite 0x82#8 0#32) State.reset = .fault .busErrorAlignment := ⟨rfl, rfl⟩

/-- 30_encoding.md R70: `setword "about"` writes the words that program P2 lists. -/
theorem test_setword_expansion :
    (expand (.setword Config.about)).take 3 =
      [hostWrite 0x20#8 5#32, hostWrite 0x24#8 0x61626F75#32, hostWrite 0x28#8 0x74000000#32] := by decide

/-! ## Witnesses: the hypotheses of each statement can be met

A clause about an unsupported language cannot be met by a state that evaluates: `LANG_SET` is a free parameter (log 4). The
witness says which code meets it when the parameter leaves that code out. -/

theorem witness_unsupported_language (h : Config.langSetRaw.getLsbD 1 = false) : Config.langSupported 1#4 = false := by
  rw [Config.langSupported, show (1#4).toNat = 1 from rfl, h]
  rfl

theorem witness_supported_language : Config.langSupported (withCs 4#4).ctrlLang = true := by decide +kernel

/-- EncodeInvertsDecode, LegalWordsAreTheWellFormedFields. -/
theorem witness_legal_word : decode 0x07FF1706#32 = .ok (.pack 23#5 2047#11) ∧
    (fieldsOf 0x07FF1706#32).wellFormed = true := ⟨rfl, by decide⟩

/-- AtMostOneRowMatches. -/
theorem witness_row_matches : ∃ r ∈ opcodeMap, 0x07FF1706#32 &&& r.mask = r.pattern := by
  refine ⟨_, List.getElem_mem (l := opcodeMap) (n := 6) (by decide), by decide⟩

/-- PseudoInstructionsWriteTheCommandWords, at the greatest operands. -/
theorem witness_pseudo_operands : (31 : Nat) ≤ 31 ∧ (2047 : Nat) ≤ 2047 := by decide

/-- EngineStepRunsTheDecodedCommand: the latency has passed, or the host has nothing to do. -/
theorem witness_engine_step :
    (let s := State.withFetchWord State.reset 32 0x00000001
     s.busy = true ∧ s.delay = 0 ∧ s.cmdq = some 0x00000001#32 ∧ decode 0x00000001#32 = .ok .checksum) ∧
    (inFlight []).busy = true ∧ (inFlight []).script = [] ∧ (inFlight []).cmdq = some 0x00000001#32 :=
  ⟨⟨rfl, rfl, rfl, rfl⟩, rfl, rfl, rfl⟩

/-- IllegalWordChangesOnlyTheReport: an unassigned opcode, and a nonzero unused field. -/
theorem witness_illegal_words :
    (∀ r ∈ opcodeMap, 0x00000009#32 &&& r.mask ≠ r.pattern) ∧ (∀ r ∈ opcodeMap, 0x00000B08#32 &&& r.mask ≠ r.pattern) ∧
    (State.withFetchWord State.reset 32 0x00000B08).cmdq = some 0x00000B08#32 ∧
    (State.withFetchWord State.reset 32 0x00000B08).busy = true ∧
    (State.withFetchWord State.reset 32 0x00000B08).delay = 0 := by
  refine ⟨by decide, by decide, rfl, rfl, rfl⟩

/-- The statements about a block that is not busy and not in reset: AcceptedCommandWriteLatches, AcceptedWriteHasItsEffect,
IdleReadReturnsTheRegister, ReadChangesNoRegister, NarrowOrMisalignedAccessIsABusError, AddressDecodingIsTheWindow,
CommandPseudoInstructionCompletes, SetwordStoresTheWord, ResetTakesEveryRegisterToItsResetValue. -/
theorem witness_idle : State.reset.busy = false ∧ State.reset.resetLine = false ∧
    (List.replicate 32 0x61#8).length ≤ 32 := by decide

/-- AcceptedWriteHasItsEffect: offsets that ignore writes, at the ends of their ranges. -/
theorem witness_ignored_offsets :
    ([0x00#8, 0x10#8, 0x1C#8, 0x44#8, 0x7C#8, 0xA4#8, 0xFC#8].all fun off : Offset =>
      decide (off.toNat % 4 = 0) && (decide (off.toNat = 0) || (decide (0x10 ≤ off.toNat) && decide (off.toNat ≤ 0x1C)) ||
        (decide (0x44 ≤ off.toNat) && decide (off.toNat ≤ 0x7C)) || decide (0xA4 ≤ off.toNat))) = true := by decide

/-- IdleReadReturnsTheRegister: reserved offsets, at the ends of their ranges. -/
theorem witness_reserved_offsets :
    ([0x68#8, 0x7F#8, 0xA4#8, 0xBF#8, 0xE0#8, 0xFF#8].all fun off : Offset =>
      (decide (0x68 ≤ off.toNat) && decide (off.toNat ≤ 0x7F)) || (decide (0xA4 ≤ off.toNat) && decide (off.toNat ≤ 0xBF)) ||
        decide (0xE0 ≤ off.toNat)) = true := by decide

/-- The statements about a busy block whose latency has not passed: WritesWhileBusyAreDropped (at `STATUS`, at `CMD` and at
the last offset), ReadChangesNoRegister, BusyReadIsADraw, ResetTakesEveryRegisterToItsResetValue. -/
theorem witness_busy : (inFlight []).busy = true ∧ (inFlight []).delay ≠ 0 ∧ (inFlight []).resetLine = false ∧
    (0x08#8).toNat % 4 = 0 ∧ (0x0C#8).toNat % 4 = 0 ∧ (0xFC#8).toNat % 4 = 0 := by decide

/-- BusyReadIsADraw: a slot that reads as when idle, and one that does not. -/
theorem witness_busy_slots :
    (0xE3#8).toNat / 4 ∈ [0, 2, 3, 7, 26, 27, 28, 29, 30, 31, 41, 42, 43, 44, 45, 46, 47, 56, 57, 58, 59, 60, 61, 62, 63] ∧
    (0xDF#8).toNat / 4 ∉ [0, 2, 3, 7, 26, 27, 28, 29, 30, 31, 41, 42, 43, 44, 45, 46, 47, 56, 57, 58, 59, 60, 61, 62, 63] := by
  decide

/-- NarrowOrMisalignedAccessIsABusError: each bad width, and misaligned offsets. -/
theorem witness_bad_access : Width.w8 ≠ .w32 ∧ Width.w16 ≠ .w32 ∧ Width.w64 ≠ .w32 ∧ (0x01#8).toNat % 4 ≠ 0 ∧
    (0xFF#8).toNat % 4 ≠ 0 := by decide

/-- AddressDecodingIsTheWindow: two offsets of one slot. -/
theorem witness_one_slot : (0x20#8).toNat / 4 = (0x23#8).toNat / 4 := by decide

/-- HostStepsCannotChangeTheCommandInFlight: a dropped write to `CMD`. -/
theorem witness_host_step_in_flight :
    let s := inFlight [hostWrite 0x0C#8 0x00000008#32]
    s.busy = true ∧ engineMovesNext s = false ∧ ¬ Takes .assertReset s ∧ ∃ t, step s = .next t :=
  ⟨rfl, rfl, by simp [Takes, inFlight, hostWrite], _, rfl⟩

/-- OvrIsClearedOnlyByStatusWriteOrReset: a write that clears it, while idle and while busy, and a step that clears it. -/
theorem witness_ovr :
    (0x00000020#32).getLsbD 5 = true ∧
    (let s := { State.reset with ovr := true, script := [hostWrite 0x08#8 0x00000020#32] }
     s.ovr = true ∧ ∃ t, step s = .next t ∧ t.ovr = false) ∧
    (let s := { inFlight [hostWrite 0x08#8 0x00000020#32] with ovr := true }
     s.ovr = true ∧ ∃ t, step s = .next t ∧ t.ovr = false) ∧
    (let s := { inFlight [.assertReset] with ovr := true }
     s.ovr = true ∧ ∃ t, step s = .next t ∧ t.ovr = false) :=
  ⟨by decide, ⟨rfl, _, rfl, rfl⟩, ⟨rfl, _, rfl, rfl⟩, ⟨rfl, _, rfl, rfl⟩⟩

/-- A state in which the engine performs a command next. -/
def about (i : Instr) (s : State) : State := { s with busy := true, cmdq := some (encode i), delay := 0 }

/-- A state in which the host takes an operation next. -/
def aboutHost (op : HostOp) (s : State) : State := { s with script := [op] }

/-- CkvChangesOnlyByTheListedEvents: a step that sets `CKV`. -/
theorem witness_ckv_set : ∃ t, step (about .checksum (withCs 8#4)) = .next t ∧ CkvSetEvent (about .checksum (withCs 8#4)) t :=
  ⟨_, rfl, .inl ⟨rfl, _, rfl, rfl⟩, rfl⟩

/-- CkvChangesOnlyByTheListedEvents: each kind of step that clears `CKV`. -/
theorem witness_ckv_clear :
    WritesReg (.buf 7) 5#32 (aboutHost (hostWrite 0x9C#8 5#32) zeroEncoded) ∧
    WritesReg .buf8 5#32 (aboutHost (hostWrite 0xA0#8 5#32) zeroEncoded) ∧
    (WritesReg .ctrl 5#32 (aboutHost (hostWrite 0x04#8 5#32) zeroEncoded) ∧
      (5#32).extractLsb' 0 4 ≠ (aboutHost (hostWrite 0x04#8 5#32) zeroEncoded).ctrlCs) ∧
    (Performs (.begin 24#5) (about (.begin 24#5) zeroEncoded) ∧
      ∃ t, step (about (.begin 24#5) zeroEncoded) = .next t ∧ t.err = false) ∧
    (Performs (.pack 11#5 0#11) (about (.pack 11#5 0#11) zeroEncoded) ∧
      ∃ t, step (about (.pack 11#5 0#11) zeroEncoded) = .next t ∧ t.err = false) ∧
    Performs .wipe (about .wipe zeroEncoded) ∧
    (Performs .verify (about .verify (withCs 4#4)) ∧
      ∃ t, step (about .verify (withCs 4#4)) = .next t ∧ t.ecode = 6#4) ∧
    Takes .assertReset (aboutHost .assertReset zeroEncoded) := by
  refine ⟨⟨rfl, _, _, ⟨rfl, rfl⟩, rfl, rfl⟩, ⟨rfl, _, _, ⟨rfl, rfl⟩, rfl, rfl⟩,
    ⟨⟨rfl, _, _, ⟨rfl, rfl⟩, rfl, rfl⟩, by decide +kernel⟩, ⟨⟨rfl, _, rfl, rfl⟩, _, rfl, rfl⟩,
    ⟨⟨rfl, _, rfl, rfl⟩, _, rfl, by decide +kernel⟩, ⟨rfl, _, rfl, rfl⟩, ⟨⟨rfl, _, rfl, rfl⟩, _, rfl, by decide +kernel⟩,
    rfl, rfl⟩

/-- CkvChangesOnlyByTheListedEvents: a step of neither kind. -/
theorem witness_ckv_kept : ∃ t, step (about .nop State.reset) = .next t ∧ ¬ CkvSetEvent (about .nop State.reset) t ∧
    ¬ CkvClearEvent (about .nop State.reset) t := by
  have h : ∀ i, Performs i (about .nop State.reset) → i = .nop := by
    rintro i ⟨-, w, hw, hd⟩
    cases hw
    cases hd
    rfl
  have hw : ∀ r v, ¬ WritesReg r v (about .nop State.reset) := fun r v hv => by simp [WritesReg, about] at hv
  refine ⟨_, rfl, ?_, ?_⟩
  · rintro ⟨h' | h', -⟩ <;> cases h _ h'
  · rintro (⟨v, i, h'⟩ | ⟨v, h'⟩ | ⟨v, h', -⟩ | ⟨n, h', -⟩ | ⟨k, i, h', -⟩ | h' | ⟨h', -⟩ | h')
    · exact hw _ _ h'
    · exact hw _ _ h'
    · exact hw _ _ h'
    · cases h _ h'
    · cases h _ h'
    · cases h _ h'
    · cases h _ h'
    · cases h'.1

/-- CommandInFlightIsPerformed: a program of polls, reads and writes. -/
theorem witness_in_flight :
    let s := inFlight [.poll, hostRead 0x10#8, hostWrite 0x80#8 1#32]
    s.busy = true ∧ s.resetLine = false ∧ s.script.all acceptedOp = true := by decide

/-- FailedCommandIsAllOrNothing, ErrinfoHoldsThePositionOfUnknownWord: a failing `INDEX_OF`, `VERIFY`,
`BEGIN` and illegal word. -/
theorem witness_failed_commands :
    (∃ t, performWord 0x00000704#32 State.reset = .next t ∧ t.err = true ∧ t.ecode = 5#4) ∧
    (∃ t, performWord 0x00000007#32 (withCs 4#4) = .next t ∧ t.err = true ∧ t.ecode = 6#4) ∧
    (∃ t, performWord 0x00000D05#32 State.reset = .next t ∧ t.err = true ∧ t.ecode = 4#4) ∧
    (∃ t, performWord 0x00000B08#32 State.reset = .next t ∧ t.err = true ∧ t.ecode = 8#4) :=
  ⟨⟨_, rfl, by decide +kernel⟩, ⟨_, rfl, by decide +kernel⟩, ⟨_, rfl, by decide +kernel⟩, _, rfl, by decide +kernel⟩

/-- A state that reports an error. -/
def reporting : State := { State.reset with done := true, err := true, ecode := 4#4 }

/-- ErrorReportLastsUntilTheNextCommand, StepKeepsStatusConsistent. -/
theorem witness_error_report : StatusConsistent reporting ∧ reporting.err = true ∧ step reporting = .next reporting ∧
    (∀ v, ¬ WritesReg .cmd v reporting) ∧ ¬ Takes .assertReset reporting :=
  ⟨⟨by decide, by decide, by decide, by decide, by decide, by decide⟩, rfl, rfl,
    fun v ⟨_, _, _, ⟨_, h⟩, _⟩ => (by cases h), fun h => by cases h.2⟩

theorem isEntropy_zeros (cs : BitVec 4) : IsEntropy cs 0#264 (List.replicate (4 * cs.toNat) 0#8) := by
  refine ⟨by simp, fun j hj t ht => ?_⟩
  rw [List.length_replicate] at hj
  simp [hj]

/-- ChecksumResult, VerifyResult: legal lengths at both ends, illegal ones on both sides. -/
theorem witness_entropy :
    IsEntropy (withCs 4#4).ctrlCs (withCs 4#4).buf (List.replicate 16 0#8) ∧
    IsEntropy (withCs 8#4).ctrlCs (withCs 8#4).buf (List.replicate 32 0#8) ∧
    IsEntropy (withCs 3#4).ctrlCs (withCs 3#4).buf (List.replicate 12 0#8) ∧
    IsEntropy (withCs 9#4).ctrlCs (withCs 9#4).buf (List.replicate 36 0#8) :=
  ⟨isEntropy_zeros 4#4, isEntropy_zeros 8#4, isEntropy_zeros 3#4, isEntropy_zeros 9#4⟩

/-- VerifyResult: supplied checksum bits that agree, and that do not (95_test_vectors.md V2: the digest begins 0x37). -/
theorem witness_supplied_bits :
    (∀ t < 4, ((sha256 (List.replicate 16 0#8)).getD 0 0#8).getMsbD t = zeroEncoded.buf.getMsbD (32 * 4 + t)) ∧
    ¬ (∀ t < 4, ((sha256 (List.replicate 16 0#8)).getD 0 0#8).getMsbD t = (withCs 4#4).buf.getMsbD (32 * 4 + t)) := by
  constructor <;> decide +kernel

/-- ChecksumIsIdempotent, VerifyAcceptsWhatChecksumWrote, StepKeepsCkvConsistent's interesting case. -/
theorem witness_checksum_ok : ∃ t, exec .checksum (withCs 4#4) = .next t ∧ t.err = false ∧ t.ckv = true :=
  ⟨_, rfl, by decide +kernel, by decide +kernel⟩

/-- VerifyRejectsChangedChecksumBits: the field 3 changed to 2. -/
theorem witness_changed_checksum :
    (∀ j < 128, (0#128 ++ 0x20000000#32 ++ 0#104 : BitBuffer).getMsbD j = zeroEncoded.buf.getMsbD j) ∧
    ∃ j, 128 ≤ j ∧ j < 132 ∧ (0#128 ++ 0x20000000#32 ++ 0#104 : BitBuffer).getMsbD j ≠ zeroEncoded.buf.getMsbD j :=
  ⟨by decide +kernel, 131, by decide, by decide, by decide +kernel⟩

/-- ChecksumCommandsDependOnCsAndBufferOnly: two states that differ elsewhere. -/
theorem witness_same_cs_and_buffer :
    let s := withCs 4#4
    let s' := { withCs 4#4 with ckv := true, winLen := 5#6, indexIdx := 9#11 }
    s.ctrlCs = s'.ctrlCs ∧ s.buf = s'.buf ∧ s ≠ s' ∧ (∃ t, exec .checksum s = .next t) ∧ ∃ t, exec .checksum s' = .next t :=
  ⟨rfl, rfl, by decide, ⟨_, rfl⟩, ⟨_, rfl⟩⟩

/-- EngineBlockIsTheEntropyRegisters, RoundTripRecoversTheEntropy: the least and the greatest legal `CS`. -/
theorem witness_legal_cs : 4 ≤ (4#4).toNat ∧ (4#4).toNat ≤ 8 ∧ 4 ≤ (8#4).toNat ∧ (8#4).toNat ≤ 8 := by decide

/-- PaddingIsTheLeast: a message that needs a second block; MessageScheduleAndCompression: a block, and the greatest prime
within each bound, 19 the eighth. -/
theorem witness_messages : (List.replicate 56 0#8 : List Byte).length < 2 ^ 61 ∧ (List.replicate 16 0#32 : List Word).length = 16 ∧
    Nat.Prime 311 ∧ Nat.Prime 19 ∧ Nat.primeCounting' 19 = 7 :=
  ⟨by decide, by decide, by norm_num, by norm_num, by decide +kernel⟩

/-- ExtractResult: each of its four clauses, at the ends of the ranges. -/
theorem witness_extract :
    (zeroEncoded.ckv = true ∧ zeroEncoded.ctrlCs = 4#4 ∧ (11#5).toNat < 3 * 4) ∧ 3 * 4 ≤ (12#5).toNat ∧
    ¬ (4 ≤ (withCs 3#4).ctrlCs.toNat ∧ (withCs 3#4).ctrlCs.toNat ≤ 8) ∧
    ¬ (4 ≤ (withCs 9#4).ctrlCs.toNat ∧ (withCs 9#4).ctrlCs.toNat ≤ 8) ∧ (withCs 8#4).ckv = false := by decide +kernel

/-- BeginResult: each legal count's neighbours. -/
theorem witness_word_counts : (12#5).toNat ∈ [12, 15, 18, 21, 24] ∧ (24#5).toNat ∈ [12, 15, 18, 21, 24] ∧
    (11#5).toNat ∉ [12, 15, 18, 21, 24] ∧ (25#5).toNat ∉ [12, 15, 18, 21, 24] := by decide

/-- PackResult: the last group, and one past it, for the least and the greatest legal `CS`. -/
theorem witness_pack : (11#5).toNat < 3 * (withCs 4#4).ctrlCs.toNat ∧ 3 * (withCs 4#4).ctrlCs.toNat ≤ (12#5).toNat ∧
    (23#5).toNat < 3 * (withCs 8#4).ctrlCs.toNat ∧ 3 * (withCs 8#4).ctrlCs.toNat ≤ (24#5).toNat := by decide

/-- LastPackOfAGroupWins, PacksOfDifferentGroupsCommute. -/
theorem witness_packs : (0#5 ≠ 11#5) ∧ (∃ t, exec (.pack 0#5 1#11) (withCs 4#4) = .next t ∧ t.err = false) ∧
    ∃ u, exec (.pack 11#5 3#11) (withCs 4#4) = .next u ∧ u.err = false :=
  ⟨by decide, ⟨_, rfl, by decide +kernel⟩, _, rfl, by decide +kernel⟩

/-- TailOfTheBufferIsKept: `CHECKSUM` with CS = 4, at the first bit of the tail. -/
theorem witness_tail : (∃ t, exec .checksum (withCs 4#4) = .next t) ∧ (∀ n, Instr.checksum ≠ .begin n) ∧
    Instr.checksum ≠ .wipe ∧ Instr.checksum ≠ .verify ∧ 33 * (withCs 4#4).ctrlCs.toNat ≤ 132 :=
  ⟨⟨_, rfl⟩, fun n => by simp, by decide, by decide, by decide⟩

/-- IndexOfResult: a state whose input word is entry 3. -/
theorem witness_entry_matches : EntryMatches (withWord Config.about) 0#4 3#11 :=
  ⟨by decide +kernel, by decide +kernel, by decide +kernel, by decide +kernel⟩

/-- IndexOfResult: states whose input word is no entry, at lengths 0 and 33. -/
theorem witness_no_entry_matches : (∀ i, ¬ EntryMatches State.reset 0#4 i) ∧
    ∀ i, ¬ EntryMatches { State.reset with winLen := 33#6 } 0#4 i :=
  ⟨fun i h => absurd h.lenPos (by decide), fun i h => absurd h.lenMax (by decide)⟩

/-- WordAtAndIndexOfAreInverse: both premises. -/
theorem witness_lookups : (∃ t, exec (.wordAt 3#11) State.reset = .next t ∧ t.err = false) ∧
    ∃ t, exec (.indexOf 0#5) (withWord Config.about) = .next t ∧ t.err = false :=
  ⟨⟨_, rfl, by decide +kernel⟩, _, rfl, by decide +kernel⟩

/-- WipeLeavesNoTrace: two states with different secrets. -/
theorem witness_two_secrets :
    (withCs 4#4).ctrlCs = zeroEncoded.ctrlCs ∧ (withCs 4#4).ctrlLang = zeroEncoded.ctrlLang ∧
    (withCs 4#4).ovr = zeroEncoded.ovr ∧ (withCs 4#4).dig ≠ zeroEncoded.dig ∧
    (∃ t, exec .wipe (withCs 4#4) = .next t) ∧ ∃ t, exec .wipe zeroEncoded = .next t :=
  ⟨by decide +kernel, by decide +kernel, by decide +kernel, by decide +kernel, ⟨_, rfl⟩, _, rfl⟩

/-- StepKeepsCkvConsistent: a state with `CKV = 1` that meets the invariant, from which a step answers. -/
theorem witness_ckv_consistent : CkvConsistent zeroEncoded ∧ zeroEncoded.ckv = true ∧ ∃ t, step zeroEncoded = .next t :=
  ⟨⟨by decide +kernel, by decide +kernel, by decide +kernel, by decide +kernel, by decide +kernel⟩, by decide +kernel,
    _, rfl⟩

/-- StepKeepsWoutTailZero: a state with an output word. -/
theorem witness_wout_tail : WoutTailZero (run (.wordAt 3#11) State.reset) ∧
    ∃ t, step (run (.wordAt 3#11) State.reset) = .next t := by
  have hw : unpackBytes (run (.wordAt 3#11) State.reset).wout =
      [0x61#8, 0x62#8, 0x6F#8, 0x75#8, 0x74#8] ++ List.replicate 27 0#8 := by decide +kernel
  have hl : (run (.wordAt 3#11) State.reset).woutLen = 5#6 := by decide +kernel
  refine ⟨⟨by rw [hl]; decide, fun j hj => ?_⟩, _, rfl⟩
  rw [hl] at hj
  have h5 : 5 ≤ j := hj
  rw [hw, List.getD_eq_getElem?_getD, List.getElem?_append_right h5, List.getElem?_replicate]
  split <;> rfl

/-- StepKeepsHeldInReset: a state with reset asserted, from which a step answers. -/
theorem witness_held_in_reset :
    let s := { State.reset with resetLine := true }
    s.resetLine = true ∧ HeldInReset s ∧ ∃ t, step s = .next t := ⟨rfl, fun _ => rfl, _, rfl⟩

end Sys2Proof.Tests
end

/-! # Proofs of the statements of 10_state.md

First a layer of facts: the cases of a command's pseudocode (`Effect`), what every step keeps (`step_keeps`), and facts about
the operands, the wordlist and the language set. The statements are settled from these. -/

namespace Sys2Proof.Machine

/-! ## The cases of a command's pseudocode -/

/-- The check of command i that fails first, with the error it raises; nothing else has then happened (60_exceptions.md
R123). `INDEX_OF` is not among them: it clears `FOUND` before it fails. -/
inductive Rejects (s : State) : Instr → CmdError → Prop
  | checksumStrength (h : validCs s.ctrlCs = false) : Rejects s .checksum .invalidStrength
  | extractStrength {k} (h : validCs s.ctrlCs = false) : Rejects s (.extract k) .invalidStrength
  | extractNotReady {k} (h : validCs s.ctrlCs = true) (hv : s.ckv = false) : Rejects s (.extract k) .notReady
  | extractRange {k} (h : validCs s.ctrlCs = true) (hv : s.ckv = true) (hk : ¬ k.toNat < wordCount s.ctrlCs) :
      Rejects s (.extract k) .indexRange
  | wordAtLanguage {i} (h : Config.langSupported s.ctrlLang = false) : Rejects s (.wordAt i) .unsupportedLanguage
  | beginCount {n} (h : legalWordCount n = false) : Rejects s (.begin n) .invalidWordCount
  | packCount {k i} (h : validCs s.ctrlCs = false) : Rejects s (.pack k i) .invalidWordCount
  | packRange {k i} (h : validCs s.ctrlCs = true) (hk : ¬ k.toNat < wordCount s.ctrlCs) :
      Rejects s (.pack k i) .indexRange
  | verifyCount (h : validCs s.ctrlCs = false) : Rejects s .verify .invalidWordCount

/-- What the pseudocode of command i can leave, and how it can end, with the conditions under which it does. -/
inductive Effect (s : State) : Instr → State × Result → Prop
  | rejected {i e} (h : Rejects s i e) : Effect s i (s, .error e)
  | nop : Effect s .nop (s, .ok)
  | checksum (h : validCs s.ctrlCs = true) :
      Effect s .checksum
        ({ storeDigest s.ctrlCs (entropyDigest s.ctrlCs s.buf) (entropyChecksum s.ctrlCs s.buf) s with
            buf := putChecksumBits s.ctrlCs (entropyChecksum s.ctrlCs s.buf) s.buf }, .ok)
  | extract {k} (h : validCs s.ctrlCs = true) (hv : s.ckv = true) (hk : k.toNat < wordCount s.ctrlCs) :
      Effect s (.extract k) ({ s with indexIdx := group s.buf k.toNat }, .ok)
  | wordAt {i} (h : Config.langSupported s.ctrlLang = true) :
      Effect s (.wordAt i) (storeWord (Config.rom s.ctrlLang i) s, .ok)
  | indexFound {p i} (h : Config.langSupported s.ctrlLang = true) (hm : matchingIndex s.ctrlLang s = some i) :
      Effect s (.indexOf p) ({ s with indexIdx := i, found := true }, .ok)
  | indexUnknown {p} (h : Config.langSupported s.ctrlLang = true) (hm : matchingIndex s.ctrlLang s = none) :
      Effect s (.indexOf p) ({ s with found := false }, .error (.unknownWord p))
  | indexLanguage {p} (h : Config.langSupported s.ctrlLang = false) :
      Effect s (.indexOf p) ({ s with found := false }, .error .unsupportedLanguage)
  | begin {n} (h : legalWordCount n = true) :
      Effect s (.begin n) ({ clearBuffer s with ctrlCs := BitVec.ofNat 4 (n.toNat / 3) }, .ok)
  | pack {k i} (h : validCs s.ctrlCs = true) (hk : k.toNat < wordCount s.ctrlCs) :
      Effect s (.pack k i) ({ s with buf := putGroup k.toNat i s.buf, ckv := false }, .ok)
  | verified (h : validCs s.ctrlCs = true) (hc : entropyChecksum s.ctrlCs s.buf = checksumBits s.ctrlCs s.buf) :
      Effect s .verify
        (storeDigest s.ctrlCs (entropyDigest s.ctrlCs s.buf) (entropyChecksum s.ctrlCs s.buf) s, .ok)
  | mismatch (h : validCs s.ctrlCs = true) (hc : entropyChecksum s.ctrlCs s.buf ≠ checksumBits s.ctrlCs s.buf) :
      Effect s .verify (clearBuffer s, .error .checksumMismatch)
  | wipe : Effect s .wipe (wipeRegisters s, .ok)

/-! One lemma per command with a branch: its pseudocode is one of its cases. -/

theorem effect_checksum (s : State) : Effect s .checksum (checksumEffect s) := by
  unfold checksumEffect
  split_ifs with h
  · exact .checksum h
  · exact .rejected (.checksumStrength (by simpa using h))

theorem effect_extract (k : BitVec 5) (s : State) : Effect s (.extract k) (extractEffect k s) := by
  unfold extractEffect
  split_ifs with h hv hk
  · exact .extract h hv hk
  · exact .rejected (.extractRange h hv hk)
  · exact .rejected (.extractNotReady h (by simpa using hv))
  · exact .rejected (.extractStrength (by simpa using h))

theorem effect_wordAt (i : WordIndex) (s : State) : Effect s (.wordAt i) (wordAtEffect i s) := by
  unfold wordAtEffect
  split_ifs with h
  · exact .wordAt h
  · exact .rejected (.wordAtLanguage (by simpa using h))

theorem effect_indexOf (p : BitVec 5) (s : State) : Effect s (.indexOf p) (indexOfEffect p s) := by
  unfold indexOfEffect
  split_ifs with h
  · split
    · exact .indexFound h ‹_›
    · exact .indexUnknown h ‹_›
  · exact .indexLanguage (by simpa using h)

theorem effect_begin (n : BitVec 5) (s : State) : Effect s (.begin n) (beginEffect n s) := by
  unfold beginEffect
  split_ifs with h
  · exact .begin h
  · exact .rejected (.beginCount (by simpa using h))

theorem effect_pack (k : BitVec 5) (i : WordIndex) (s : State) : Effect s (.pack k i) (packEffect k i s) := by
  unfold packEffect
  split_ifs with h hk
  · exact .pack h hk
  · exact .rejected (.packRange h hk)
  · exact .rejected (.packCount (by simpa using h))

theorem effect_verify (s : State) : Effect s .verify (verifyEffect s) := by
  unfold verifyEffect
  split_ifs with h hc
  · exact .verified h hc
  · exact .mismatch h hc
  · exact .rejected (.verifyCount (by simpa using h))

/-- Every command's pseudocode is one of the cases of `Effect`. -/
theorem effect_effectOf (i : Instr) (s : State) : Effect s i (effectOf i s) := by
  cases i with
  | nop => exact .nop
  | checksum => exact effect_checksum s
  | extract k => exact effect_extract k s
  | wordAt i => exact effect_wordAt i s
  | indexOf p => exact effect_indexOf p s
  | begin n => exact effect_begin n s
  | pack k i => exact effect_pack k i s
  | verify => exact effect_verify s
  | wipe => exact .wipe

/-- A performed command leaves one of the cases of `Effect`, with `finish`'s fields. -/
theorem exec_effect {i : Instr} {s t : State} (h : exec i s = .next t) : ∃ p, Effect s i p ∧ t = finish p.2 p.1 :=
  ⟨_, effect_effectOf i s, exec_next h⟩

/-- A failed check is never reported as `UnknownWord`. -/
theorem Rejects.errorCode_ne_unknownWord {s : State} {i : Instr} {e : CmdError} (h : Rejects s i e) :
    errorCode e ≠ 5#4 := by
  cases h <;> decide

/-- `UnknownWord` is the report of `INDEX_OF` alone, with its operand (43_wordlist.md R110). -/
theorem Effect.unknownWord {s : State} {i : Instr} {p : State × Result} (h : Effect s i p)
    (hc : resultCode p.2 = 5#4) :
    ∃ k, i = .indexOf k ∧ p = ({ s with found := false }, .error (.unknownWord k)) := by
  cases h with
  | rejected h => exact absurd hc h.errorCode_ne_unknownWord
  | indexUnknown => exact ⟨_, rfl, rfl⟩
  | _ => simp [resultCode, errorCode] at hc

/-- A position is recorded beside `UnknownWord` only (10_state.md R30). -/
theorem resultPos_eq_zero {r : Result} (h : resultCode r ≠ 5#4) : resultPos r = 0#5 := by
  cases r with
  | ok => rfl
  | error e =>
    cases e with
    | unknownWord => exact absurd rfl h
    | _ => rfl

/-- A command's report has `ERR = 1` exactly when its code is not 0 (10_state.md R26). -/
theorem resultErr_iff (r : Result) : resultErr r = true ↔ resultCode r ≠ 0#4 := by
  cases r with
  | ok => decide
  | error e => cases e <;> simp [resultErr, resultCode, errorCode]

/-! ## The word a command was decoded from -/

/-- A command is that of a row of the opcode map that its word matches, its operands taken from the word's fields
(30_encoding.md R67). -/
theorem decode_ok {w : Word} {i : Instr} (h : decode w = .ok i) :
    ∃ r ∈ opcodeMap, rowMatches w r = true ∧ i = r.command (wordK w) (wordIdx w) := by
  unfold decode at h
  split at h
  · rename_i r hr
    exact ⟨r, List.mem_of_find?_eq_some hr, List.find?_some hr, (Except.ok.inj h).symm⟩
  · cases h

/-- The operand of `INDEX_OF` is its word's field `K` (30_encoding.md R63). -/
theorem decode_indexOf {w : Word} {p : BitVec 5} (h : decode w = .ok (.indexOf p)) : p = wordK w := by
  obtain ⟨r, hr, -, hi⟩ := decode_ok h
  simp only [opcodeMap, List.mem_cons, List.not_mem_nil, or_false] at hr
  rcases hr with rfl | rfl | rfl | rfl | rfl | rfl | rfl | rfl | rfl <;> cases hi
  rfl

/-- Performing a word answers its command's meaning, or the report of an illegal word. -/
theorem performWord_next {w : Word} {s t : State} (h : performWord w s = .next t) :
    (∃ i, decode w = .ok i ∧ exec i s = .next t) ∨
      ∃ e, decode w = .error e ∧ t = finish (.error .illegalCommand) s := by
  unfold performWord at h
  split at h
  · rename_i i hi
    exact .inl ⟨i, hi, h⟩
  · rename_i e he
    exact .inr ⟨e, he, (Host.Outcome.next.inj h).symm⟩

/-! ## What every step keeps -/

/-- The block's registers other than `OVR`: s with the overrun flag, the reset input and the host's fields set aside. -/
def registers (s : State) : State :=
  { s with
    ovr := false, resetLine := false, script := [], responses := [], delay := 0, delays := [], draws := 0 }

/-- A predicate of the block's registers is kept by every step, if it holds at reset and is kept by every command's end, by
the report of an illegal word and by every register write: the steps that are left change none of these registers. -/
theorem step_keeps {P : State → Prop} (ofRegisters : ∀ {s t}, P s → registers t = registers s → P t)
    (command : ∀ {i s p}, Effect s i p → P s → P (finish p.2 p.1))
    (illegal : ∀ {s}, P s → P (finish (.error .illegalCommand) s))
    (write : ∀ r v {s}, P s → P (writeReg r v s)) (reset : P State.reset)
    {s t : State} (hs : P s) (h : step s = .next t) : P t := by
  rcases step_next h with ⟨-, h⟩ | ⟨-, op, -, h⟩ | ⟨-, -, rfl⟩
  · obtain ⟨w, -, ⟨i, -, hi⟩ | ⟨e, -, rfl⟩⟩ := perform_next h
    · obtain ⟨p, hp, rfl⟩ := exec_effect hi
      exact command hp hs
    · exact illegal hs
  · rcases hostStep_next h with ⟨_, _, _, _, -, -, rfl⟩ | ⟨_, _, v, off, -, -, rfl⟩ | ⟨-, -, rfl⟩ | ⟨-, rfl⟩ | ⟨-, rfl⟩
    · exact ofRegisters hs rfl
    · have elapsed : P (elapse s) := ofRegisters hs rfl
      have written : P (busWrite off v (elapse s)) := by
        rcases busWrite_cases off v (elapse s) with ⟨-, -, e⟩ | ⟨-, e⟩ <;> rw [e]
        · exact ofRegisters hs rfl
        · exact write _ v elapsed
      exact ofRegisters written rfl
    · exact ofRegisters hs rfl
    · exact ofRegisters reset rfl
    · exact ofRegisters hs rfl
  · exact hs

/-! ## Facts about the digest, the checksum bits and the bit stream -/

/-- A digest stored in eight registers is read back whole (41_checksum.md R94). -/
theorem unpackBytes_packBytes_sha256 (m : List Byte) : unpackBytes (packBytes (sha256 m)) = sha256 m :=
  congrArg unpackBytes (pack_unpackBytes (sha256Words m))

/-- The first byte of a packed string is the most significant of its first register. -/
theorem packBytes_firstByte (b : List Byte) : (packBytes b)[0].extractLsb' 24 8 = b.getD 0 0#8 :=
  List.head_eq_of_cons_eq (wordBytes_packWord b 0)

theorem validCs_iff {cs : BitVec 4} : validCs cs = true ↔ 4 ≤ cs.toNat ∧ cs.toNat ≤ 8 := by
  simp [validCs]

/-- The checksum of a legal strength has CS bits (41_checksum.md R96). -/
theorem csum_toNat_lt {cs : BitVec 4} (d : List Byte) (h : cs.toNat ≤ 8) : (csum cs d).toNat < 2 ^ cs.toNat := by
  have pow : 2 ^ (8 - cs.toNat) * 2 ^ cs.toNat = 2 ^ 8 := by rw [← Nat.pow_add, Nat.sub_add_cancel h]
  rw [csum, BitVec.toNat_ushiftRight, Nat.shiftRight_eq_div_pow, Nat.div_lt_iff_lt_mul (Nat.two_pow_pos _),
    Nat.mul_comm, pow]
  exact BitVec.isLt _

/-- The supplied checksum bits are those last written, if the value fits in CS bits. -/
theorem checksumBits_putChecksumBits {cs : BitVec 4} {c : BitVec 8} (b : BitBuffer) (h : cs.toNat ≤ 8)
    (hc : c.toNat < 2 ^ cs.toNat) : checksumBits cs (putChecksumBits cs c b) = c := by
  rw [checksumBits, putChecksumBits, streamSlice_put_same _ _ _ (by unfold entBits; omega)]
  refine BitVec.eq_of_toNat_eq ?_
  rw [BitVec.toNat_setWidth, BitVec.toNat_setWidth, Nat.mod_eq_of_lt hc, Nat.mod_eq_of_lt c.isLt]

/-- Writing the checksum bits leaves the entropy's digest alone. -/
theorem entropyDigest_putChecksumBits {cs : BitVec 4} (c : BitVec 8) (b : BitBuffer) (h : cs.toNat ≤ 8) :
    entropyDigest cs (putChecksumBits cs c b) = entropyDigest cs b :=
  congrArg sha256 (entropyBytes_putChecksumBits cs c b h)

/-- Writing the checksum bits leaves the entropy's checksum alone. -/
theorem entropyChecksum_putChecksumBits {cs : BitVec 4} (c : BitVec 8) (b : BitBuffer) (h : cs.toNat ≤ 8) :
    entropyChecksum cs (putChecksumBits cs c b) = entropyChecksum cs b :=
  congrArg (csum cs) (entropyDigest_putChecksumBits c b h)

/-- A put that ends at or before stream bit j leaves it alone. -/
theorem streamPut_getMsbD_of_le {n : Nat} (b : BitBuffer) {p j : Nat} (v : BitVec n) (h : p + n ≤ 264) (hj : p + n ≤ j) :
    (streamPut b p v).getMsbD j = b.getMsbD j := by
  by_cases lt : j < 264
  · rw [streamPut_getMsbD b p v j h lt, if_neg (by omega)]
  · rw [BitVec.getMsbD_of_ge _ _ (by omega), BitVec.getMsbD_of_ge _ _ (by omega)]

end Sys2Proof.Machine

namespace Sys2Proof

/-! ## The wordlist configuration (10_state.md R44, R45) -/

/-- The ROM of every language is a well-formed configuration: its table, in its byte form (10_state.md R44, R45). -/
theorem Config.rom_tableOk (l : LangCode) : Config.tableOk l (Config.nativeForm l) (Config.rom l) = true := by
  rcases Config.rom_cases l with ⟨raw, hrom⟩ | ⟨raw, hrom⟩
  · have form : Config.nativeForm l = if l = 0#4 then Config.englishForm else Config.nativeFormRaw l := by
      funext w
      simp only [Config.nativeForm, raw, if_true]
      split <;> rfl
    rw [form, funext hrom]
    exact raw
  · have form : Config.nativeForm l = Config.englishForm := by
      funext w
      simp [Config.nativeForm, raw]
    rw [form, funext hrom]
    exact Config.fallbackWord_ok l

/-- The entries of a language are pairwise distinct (10_state.md R44 (b)). -/
theorem Config.rom_injective {l : LangCode} {i j : WordIndex} (h : Config.rom l i = Config.rom l j) : i = j := by
  obtain ⟨distinct, -⟩ := (Config.tableOk_iff _ _ _).mp (Config.rom_tableOk l)
  exact distinct i j h

/-- An entry is of 1 to 32 bytes (10_state.md R44 (c)). -/
theorem Config.rom_length (l : LangCode) (i : WordIndex) :
    1 ≤ (Config.rom l i).length ∧ (Config.rom l i).length ≤ 32 := by
  obtain ⟨-, lengths, -⟩ := (Config.tableOk_iff _ _ _).mp (Config.rom_tableOk l)
  exact lengths i

/-- An entry is in its language's byte form (10_state.md R44 (d)). -/
theorem Config.rom_nativeForm (l : LangCode) (i : WordIndex) : Config.nativeForm l (Config.rom l i) = true := by
  obtain ⟨-, -, form, -⟩ := (Config.tableOk_iff _ _ _).mp (Config.rom_tableOk l)
  exact form i

theorem Config.isWhitespace_eq_false {b : Byte} :
    Config.isWhitespace b = false ↔ b ≠ 0x20#8 ∧ ¬ (0x09 ≤ b.toNat ∧ b.toNat ≤ 0x0D) := by
  simp [Config.isWhitespace]

/-- English's byte form in words: ASCII, no upper-case letter, no whitespace at either end (43_wordlist.md R111). -/
theorem Config.englishForm_iff (w : List Byte) :
    Config.englishForm w = true ↔
      (∀ b ∈ w, b.toNat < 0x80 ∧ ¬ (0x41 ≤ b.toNat ∧ b.toNat ≤ 0x5A)) ∧
        ∀ b, w.head? = some b ∨ w.getLast? = some b → b ≠ 0x20#8 ∧ ¬ (0x09 ≤ b.toNat ∧ b.toNat ≤ 0x0D) := by
  simp only [← Config.isWhitespace_eq_false]
  simp only [Config.englishForm, Bool.and_eq_true, List.all_eq_true, Option.all_eq_true, Bool.not_eq_true',
    Bool.and_eq_false_iff, decide_eq_true_eq, decide_eq_false_iff_not, not_and_or, or_imp, forall_and, and_assoc]

end Sys2Proof

namespace Sys2Proof.Machine

/-! ## The CAM (10_state.md R46) -/

/-- The CAM tries every index. -/
theorem mem_camOrder (i : WordIndex) : i ∈ camOrder := by
  have : i ∈ (List.range 2048).map (BitVec.ofNat 11) :=
    List.mem_map.mpr ⟨i.toNat, List.mem_range.mpr i.isLt, BitVec.eq_of_toNat_eq (by simp)⟩
  simp [camOrder, this]

/-- The CAM finds nothing exactly when no entry is the word (10_state.md R46). -/
theorem cam_eq_none_iff (l : LangCode) (w : List Byte) : cam l w = none ↔ ∀ i, Config.rom l i ≠ w := by
  simp [cam, mem_camOrder]

/-- The CAM finds the index whose entry is the word, the only one (10_state.md R46). -/
theorem cam_eq_some_iff (l : LangCode) (w : List Byte) (i : WordIndex) : cam l w = some i ↔ Config.rom l i = w := by
  have sound {j} (h : cam l w = some j) : Config.rom l j = w := by simpa using List.find?_some h
  refine ⟨sound, fun h => ?_⟩
  cases hc : cam l w with
  | none => exact absurd h ((cam_eq_none_iff l w).mp hc i)
  | some j => rw [Config.rom_injective ((sound hc).trans h.symm)]

/-! ## The language set (10_state.md R31) -/

/-- `LANG_SET` as the register shows it, one bit per code (10_state.md R31). -/
theorem langSet_getLsbD (l : LangCode) : Config.langSet.getLsbD l.toNat = Config.langSupported l := by
  rw [Config.langSet, Config.langSupported, BitVec.getLsbD_or, Bool.or_comm]
  congr 1
  revert l
  decide

/-- `LANGS` reads as the language set in every state, busy or not (40_lifecycle.md R78). -/
theorem busReadValue_langs (s : State) : busReadValue 0x1C#8 s = Config.langSet.setWidth 32 := by
  have langs : regAt 0x1C#8 = .langs := rfl
  simp [busReadValue, readIsDraw, langs, readableWhileBusy, readReg]

end Sys2Proof.Machine

namespace Sys2Proof.Safety

open Sys2Proof.Machine

/-! ## `CKV` (10_state.md R39) -/

/-- What the invariant of `CKV` reads of the state. -/
def ckvView (s : State) : Bool × BitVec 4 × BitBuffer × Vector Word 8 × BitVec 8 × BitVec 4 :=
  (s.ckv, s.ctrlCs, s.buf, s.dig, s.cksumVal, s.cksumLen)

theorem CkvConsistent.of_view {s t : State} (hs : CkvConsistent s) (h : ckvView t = ckvView s) : CkvConsistent t := by
  simp only [ckvView, Prod.mk.injEq] at h
  obtain ⟨ckv, cs, buf, dig, val, len⟩ := h
  obtain ⟨valid, lenIs, digest, valIs, stored⟩ := hs
  constructor <;> simpa only [ckv, cs, buf, dig, val, len]

theorem ckvConsistent_of_ckv_false {s : State} (h : s.ckv = false) : CkvConsistent s := by
  constructor <;> simp [h]

/-- A state that stores the digest of its entropy, with the checksum both in `CKSUM` and in the buffer. -/
theorem ckvConsistent_of_stored {s : State} (hcs : validCs s.ctrlCs = true) (hlen : s.cksumLen = s.ctrlCs)
    (hdig : s.dig = packBytes (entropyDigest s.ctrlCs s.buf)) (hval : s.cksumVal = entropyChecksum s.ctrlCs s.buf)
    (hbits : checksumBits s.ctrlCs s.buf = entropyChecksum s.ctrlCs s.buf) : CkvConsistent s where
  validCs _ := hcs
  cksumLen _ := hlen
  digest _ := by rw [hdig]; exact unpackBytes_packBytes_sha256 _
  cksumVal _ := by rw [hval, hdig, packBytes_firstByte]; rfl
  storedBits _ := by rw [hbits, hval]

/-- `CHECKSUM` leaves the digest of the buffer it writes: the checksum bits are no entropy (41_checksum.md R97). -/
theorem ckvConsistent_checksum {s : State} (h : validCs s.ctrlCs = true) :
    CkvConsistent (finish .ok
      { storeDigest s.ctrlCs (entropyDigest s.ctrlCs s.buf) (entropyChecksum s.ctrlCs s.buf) s with
        buf := putChecksumBits s.ctrlCs (entropyChecksum s.ctrlCs s.buf) s.buf }) := by
  have le : s.ctrlCs.toNat ≤ 8 := (validCs_iff.mp h).2
  have digest := entropyDigest_putChecksumBits (entropyChecksum s.ctrlCs s.buf) s.buf le
  have checksum := entropyChecksum_putChecksumBits (entropyChecksum s.ctrlCs s.buf) s.buf le
  have bits := checksumBits_putChecksumBits s.buf le (csum_toNat_lt (entropyDigest s.ctrlCs s.buf) le)
  exact ckvConsistent_of_stored h rfl (congrArg packBytes digest.symm) checksum.symm (bits.trans checksum.symm)

theorem CkvConsistent.of_effect {i : Instr} {s : State} {p : State × Result} (h : Effect s i p) (hs : CkvConsistent s) :
    CkvConsistent (finish p.2 p.1) := by
  cases h with
  | checksum h => exact ckvConsistent_checksum h
  | verified h hc => exact ckvConsistent_of_stored h rfl rfl rfl hc.symm
  | begin | pack | mismatch | wipe => exact ckvConsistent_of_ckv_false rfl
  | rejected | nop | extract | wordAt | indexFound | indexUnknown | indexLanguage => exact hs.of_view rfl

/-- A register write that keeps `CKV = 1` changes neither `CS` nor the buffer (40_lifecycle.md R81). -/
theorem CkvConsistent.of_writeReg (r : Reg) (v : Word) {s : State} (hs : CkvConsistent s) :
    CkvConsistent (writeReg r v s) := by
  cases r with
  | buf | buf8 => exact ckvConsistent_of_ckv_false rfl
  | ctrl =>
    by_cases h : v.extractLsb' 0 4 = s.ctrlCs
    · exact hs.of_view (by simp [ckvView, writeReg, h])
    · exact ckvConsistent_of_ckv_false (by simp [writeReg, h])
  | _ => exact hs.of_view rfl

/-- Settles O55: `CHECKSUM` and a successful `VERIFY` establish what `CKV = 1` says, and every other step clears `CKV` or
keeps all that it speaks of. -/
theorem stepKeepsCkvConsistent : Obligations.StepKeepsCkvConsistent := fun _ _ hs h =>
  step_keeps
    (ofRegisters := fun hs hr => hs.of_view (congrArg ckvView hr :))
    (command := CkvConsistent.of_effect)
    (illegal := fun hs => hs.of_view rfl)
    (write := CkvConsistent.of_writeReg)
    (reset := ckvConsistent_of_ckv_false rfl) hs h

/-! ## `STATUS`, `ERRINFO` and `CMDQ` (10_state.md R26, R30) -/

/-- What the invariant of the reports reads of the state. -/
def statusView (s : State) : Bool × Bool × Bool × BitVec 4 × BitVec 5 × Option Word :=
  (s.busy, s.done, s.err, s.ecode, s.errPos, s.cmdq)

theorem StatusConsistent.of_view {s t : State} (hs : StatusConsistent s) (h : statusView t = statusView s) :
    StatusConsistent t := by
  simp only [statusView, Prod.mk.injEq] at h
  obtain ⟨busy, done, err, ecode, errPos, cmdq⟩ := h
  obtain ⟨errIff, raised, errDone, clear, latched, pos⟩ := hs
  constructor <;> simpa only [busy, done, err, ecode, errPos, cmdq]

/-- The codes of failed checks are among those that are raised (60_exceptions.md R120, R121). -/
theorem raisedCode_of_rejects {s : State} {i : Instr} {e : CmdError} (h : Rejects s i e) :
    raisedCode (errorCode e) = true := by
  cases h <;> rfl

/-- A command reports success or a code that is raised: never `EntropySourceUnavailable` (60_exceptions.md R121). -/
theorem raisedCode_of_effect {s : State} {i : Instr} {p : State × Result} (h : Effect s i p)
    (hc : resultCode p.2 ≠ 0#4) : raisedCode (resultCode p.2) = true := by
  cases h with
  | rejected h => exact raisedCode_of_rejects h
  | indexUnknown | indexLanguage | mismatch => rfl
  | _ => exact absurd rfl hc

/-- The report of a command that raises no other code is consistent, whatever was reported before (40_lifecycle.md R80). -/
theorem statusConsistent_finish {r : Result} (s : State) (hr : resultCode r ≠ 0#4 → raisedCode (resultCode r) = true) :
    StatusConsistent (finish r s) where
  errIffCode := resultErr_iff r
  codeRaised := hr
  errDone _ := rfl
  busyClear h := nomatch h
  busyLatched h := nomatch h
  posOnlyUnknownWord h := .inl (Decidable.by_contra fun hc => h (resultPos_eq_zero hc))

/-- Issuing a command clears the report and latches a word (40_lifecycle.md R76). -/
theorem statusConsistent_issue (v : Word) (s : State) : StatusConsistent (issue v s) := by
  constructor <;> simp

theorem StatusConsistent.of_writeReg (r : Reg) (v : Word) {s : State} (hs : StatusConsistent s) :
    StatusConsistent (writeReg r v s) := by
  cases r with
  | cmd => exact statusConsistent_issue v s
  | _ => exact hs.of_view rfl

/-- Settles O56: a command's end and the issue of a command each write a consistent report, and every other step but reset
leaves the report alone. -/
theorem stepKeepsStatusConsistent : Obligations.StepKeepsStatusConsistent := fun _ _ hs h =>
  step_keeps
    (ofRegisters := fun hs hr => hs.of_view (congrArg statusView hr :))
    (command := fun he _ => statusConsistent_finish _ (raisedCode_of_effect he))
    (illegal := fun _ => statusConsistent_finish _ fun _ => rfl)
    (write := StatusConsistent.of_writeReg)
    (reset := by constructor <;> decide) hs h

/-- Settles O25: `INDEX_OF` alone reports code 5, with its operand, which is the word's field `K`; every other report has
position 0. -/
theorem errinfoHoldsThePositionOfUnknownWord : Obligations.ErrinfoHoldsThePositionOfUnknownWord := by
  refine ⟨fun w s t h => ?_, fun s => rfl, rfl⟩
  rcases performWord_next h with ⟨i, hw, hi⟩ | ⟨e, -, rfl⟩
  · obtain ⟨p, hp, rfl⟩ := exec_effect hi
    refine ⟨fun hc => ?_, resultPos_eq_zero⟩
    obtain ⟨k, rfl, rfl⟩ := hp.unknownWord hc
    exact ⟨decode_indexOf hw, rfl, rfl⟩
  · exact ⟨fun hc => absurd hc (by simp [resultCode, errorCode]), fun _ => rfl⟩

/-! ## The buffer's tail (10_state.md R37) -/

/-- Settles O42: the checksum bits and every group that `PACK` accepts end at or before stream bit 33·CS, and no other
command writes the buffer without clearing it. -/
theorem tailOfTheBufferIsKept : Obligations.TailOfTheBufferIsKept := by
  intro c s t j h notBegin notWipe notFailedVerify tail
  obtain ⟨p, hp, rfl⟩ := exec_effect h
  cases hp with
  | checksum hcs =>
    have le := (validCs_iff.mp hcs).2
    exact streamPut_getMsbD_of_le _ _ (by unfold entBits; omega) (by unfold entBits; omega)
  | pack hcs hk =>
    have le := (validCs_iff.mp hcs).2
    unfold wordCount at hk
    exact streamPut_getMsbD_of_le _ _ (by omega) (by omega)
  | begin => exact absurd rfl (notBegin _)
  | wipe => exact absurd rfl notWipe
  | mismatch => exact absurd ⟨rfl, rfl⟩ notFailedVerify
  | _ => rfl

/-! ## The wordlist and the language set (10_state.md R31, R44 to R46) -/

/-- Settles O44: every language's table, given or standing in for an ill-formed one, is well-formed in its byte form. -/
theorem everyTableIsWellFormed : Obligations.EveryTableIsWellFormed := by
  have english (i : WordIndex) := (Config.englishForm_iff _).mp (Config.nativeForm_english _ ▸ Config.rom_nativeForm 0#4 i)
  exact ⟨fun _ _ _ => Config.rom_injective, Config.rom_length, Config.rom_nativeForm, fun i => (english i).1,
    fun i => (english i).2, rfl, rfl⟩

/-- Settles O45: the entries are distinct, so the search inverts the table; every entry is in its language's byte form, so
a word in another form is no entry. -/
theorem camIsTheInverseOfTheRom : Obligations.CamIsTheInverseOfTheRom := by
  refine ⟨cam_eq_some_iff, cam_eq_none_iff, fun l w hw => (cam_eq_none_iff l w).mpr fun i h => ?_⟩
  rw [← h, Config.rom_nativeForm] at hw
  cases hw

/-- Settles O46: `LANGS` is a constant, the language set extended by zeros. -/
theorem langsShowsTheLanguageSet : Obligations.LangsShowsTheLanguageSet := by
  intro s
  have low (l : LangCode) : (Config.langSet.setWidth 32).getLsbD l.toNat = Config.langSupported l := by
    have : l.toNat < 32 := by omega
    simp [this, langSet_getLsbD]
  rw [busReadValue_langs, busReadValue_langs]
  refine ⟨low, low 0#4, fun j hj => ?_, rfl⟩
  rw [BitVec.getLsbD_setWidth, BitVec.getLsbD_of_ge _ _ hj, Bool.and_false]

/-! ## `WOUT` (10_state.md R34, R35) -/

/-- What the invariant of the output word reads of the state. -/
def woutView (s : State) : BitVec 6 × Vector Word 8 := (s.woutLen, s.wout)

theorem WoutTailZero.of_view {s t : State} (hs : WoutTailZero s) (h : woutView t = woutView s) : WoutTailZero t := by
  simp only [woutView, Prod.mk.injEq] at h
  obtain ⟨len, wout⟩ := h
  exact ⟨len ▸ hs.lenBound, len ▸ wout ▸ hs.tail⟩

/-- A stored word of at most 32 bytes is zero filled (43_wordlist.md R108). -/
theorem woutTailZero_of_packed {s : State} {w : List Byte} (hw : w.length ≤ 32) (hlen : s.woutLen = BitVec.ofNat 6 w.length)
    (hwout : s.wout = packBytes w) : WoutTailZero s := by
  have len : s.woutLen.toNat = w.length := by
    rw [hlen, BitVec.toNat_ofNat]
    omega
  refine ⟨len ▸ hw, fun j hj => ?_⟩
  rw [len] at hj
  rw [hwout, unpack_packBytes]
  by_cases lt : j < 32 <;> simp [lt, hj]

theorem WoutTailZero.of_effect {i : Instr} {s : State} {p : State × Result} (h : Effect s i p) (hs : WoutTailZero s) :
    WoutTailZero (finish p.2 p.1) := by
  cases h with
  | wordAt => exact woutTailZero_of_packed (Config.rom_length _ _).2 rfl rfl
  | wipe => exact woutTailZero_of_packed (w := []) (by decide) rfl rfl
  | _ => exact hs.of_view rfl

theorem WoutTailZero.of_writeReg (r : Reg) (v : Word) {s : State} (hs : WoutTailZero s) : WoutTailZero (writeReg r v s) := by
  cases r <;> exact hs.of_view rfl

/-- Settles O57: `WORD_AT` stores a zero filled word, `WIPE` and reset store the empty one, and nothing else writes `WOUT`
or `WOUT_LEN`. -/
theorem stepKeepsWoutTailZero : Obligations.StepKeepsWoutTailZero := fun _ _ hs h =>
  step_keeps
    (ofRegisters := fun hs hr => hs.of_view (congrArg woutView hr :))
    (command := WoutTailZero.of_effect)
    (illegal := fun hs => hs.of_view rfl)
    (write := WoutTailZero.of_writeReg)
    (reset := woutTailZero_of_packed (w := []) (by decide) rfl rfl) hs h

end Sys2Proof.Safety

/-! # Proofs of the statements of 20_memory.md

First a layer of facts about what the block accepts: the window, and the accesses that fault. Then the statements. -/

namespace Sys2Proof.Machine

/-! ## Address decoding (20_memory.md R49) -/

/-- `BASE` is a multiple of the window's size (20_memory.md R49). -/
theorem base_mod : Config.base % 0x100 = 0 :=
  Nat.mod_eq_zero_of_dvd (Nat.dvd_mul_left 0x100 Config.basePage)

/-- Offsets of one slot address one register (20_memory.md R49). -/
theorem regAt_eq_of_slot_eq (off off' : Offset) (h : off.toNat / 4 = off'.toNat / 4) : regAt off = regAt off' :=
  congrArg regAtSlot h

/-- An address in the window is decoded to its distance from `BASE` (20_memory.md R49). -/
theorem windowOffset_eq_some_iff (a : Nat) (off : Offset) :
    windowOffset a = some off ↔ Config.base ≤ a ∧ a < Config.base + 0x100 ∧ off.toNat = a - Config.base := by
  rw [windowOffset, Option.ite_none_right_eq_some, Option.some.injEq, and_assoc]
  refine and_congr_right fun low => and_congr_right fun high => ?_
  have lt : a - Config.base < 2 ^ 8 := by omega
  rw [← BitVec.toNat_inj, BitVec.toNat_ofNat, Nat.mod_eq_of_lt lt, eq_comm]

/-- An access by bus address is decoded to the offset it lies at. -/
theorem targetOffset_busAddr (off : Offset) :
    targetOffset (.busAddr (Config.base + off.toNat)) = targetOffset (.offset off) :=
  (windowOffset_eq_some_iff _ off).mpr
    ⟨Nat.le_add_right _ _, Nat.add_lt_add_left off.isLt _, (Nat.add_sub_cancel_left ..).symm⟩

/-- The block tells accesses apart by the offset they are decoded to, not by how they name it. -/
theorem acceptAccess_congr {t t' : Target} (h : targetOffset t = targetOffset t') (w : Width) (s : State) :
    acceptAccess t w s = acceptAccess t' w s := by
  simp only [acceptAccess, h]

/-! ## Bus errors (20_memory.md R50, R51) -/

/-- An access by offset of a width other than 32 bits is a bus error (20_memory.md R50). -/
theorem acceptAccess_badWidth {off : Offset} {w : Width} {s : State} (hr : s.resetLine = false) (hw : w ≠ .w32) :
    acceptAccess (.offset off) w s = .fault .busErrorWidth := by
  simp [acceptAccess, hr, targetOffset, hw]

/-- A misaligned 32-bit access by offset is a bus error (20_memory.md R51). -/
theorem acceptAccess_misaligned {off : Offset} {s : State} (hr : s.resetLine = false) (ha : off.toNat % 4 ≠ 0) :
    acceptAccess (.offset off) .w32 s = .fault .busErrorAlignment := by
  simp [acceptAccess, hr, targetOffset, ha]

/-! ## Accepted accesses

The host takes the first operation of its program: what the access does is what it does to s, whatever the operation. -/

theorem acceptAccess_script (t : Target) (w : Width) (s : State) (ops : List HostOp) :
    acceptAccess t w { s with script := ops } = acceptAccess t w s := rfl

theorem popScript_read_cons (off : Offset) (e : Option Word) (op : HostOp) (s : State) :
    popScript (elapse (recordRead off e { s with script := op :: s.script })) = elapse (recordRead off e s) := rfl

theorem writeReg_script (r : Reg) (v : Word) (s : State) (ops : List HostOp) :
    writeReg r v { s with script := ops } = { writeReg r v s with script := ops } := by
  cases r <;> rfl

theorem busWrite_script (off : Offset) (v : Word) (s : State) (ops : List HostOp) :
    busWrite off v { s with script := ops } = { busWrite off v s with script := ops } := by
  simp only [busWrite, writeReg_script]
  split_ifs <;> rfl

theorem popScript_write_cons (off : Offset) (v : Word) (op : HostOp) (s : State) :
    popScript (busWrite off v (elapse { s with script := op :: s.script })) =
      { busWrite off v (elapse s) with script := s.script } :=
  congrArg popScript (busWrite_script off v (elapse s) (op :: s.script))

/-- While busy, a write is dropped with `OVR` set, or it is to `STATUS` and can only clear `OVR`: it changes no other field
(40_lifecycle.md R74, R79). -/
theorem busWrite_busy {s : State} (hb : s.busy = true) (off : Offset) (v : Word) :
    ∃ o, busWrite off v s = { s with ovr := o } := by
  rcases busWrite_cases off v s with ⟨-, -, dropped⟩ | ⟨idle | status, written⟩
  · exact ⟨_, dropped⟩
  · rw [hb] at idle
    cases idle
  · rw [status] at written
    exact ⟨_, written⟩

end Sys2Proof.Machine

namespace Sys2Proof.Safety

open Sys2Proof.Machine

/-! ## Reads and bus errors -/

/-- Settles O14: the accepted read's step is `recordRead` and `elapse`, neither of which touches a register. -/
theorem readChangesNoRegister : Obligations.ReadChangesNoRegister := by
  intro s off hr ha hh
  rw [stepWith_read hh hr ha, popScript_read_cons]
  rfl

/-- An access that is not accepted faults the host's program, write or read. -/
theorem stepWith_fault {t : Target} {w : Width} {s : State} {f : Fault} (hh : s.busy = false ∨ s.delay ≠ 0)
    (h : acceptAccess t w s = .fault f) (v : Word) (e : Option Word) :
    stepWith (.write t w v) s = .fault f ∧ stepWith (.read t w e) s = .fault f := by
  constructor <;> simp only [stepWith_eq hh, hostStep, acceptAccess_script, h]

/-- Settles O16: neither access passes the block's checks. -/
theorem narrowOrMisalignedAccessIsABusError : Obligations.NarrowOrMisalignedAccessIsABusError :=
  fun _ _ _ v e hr hh =>
    ⟨fun hw => stepWith_fault hh (acceptAccess_badWidth hr hw) v e,
      fun ha => stepWith_fault hh (acceptAccess_misaligned hr ha) v e⟩

/-! ## The window -/

/-- The host's step for an access depends on the access's target only through the offset it names. -/
theorem stepWith_target_congr {t t' : Target} {s : State} (hh : s.busy = false ∨ s.delay ≠ 0)
    (h : targetOffset t = targetOffset t') (w : Width) (v : Word) (e : Option Word) :
    stepWith (.write t w v) s = stepWith (.write t' w v) s ∧ stepWith (.read t w e) s = stepWith (.read t' w e) s := by
  constructor <;>
    simp only [stepWith_eq hh, hostStep, acceptAccess_script, acceptAccess_congr h, popScript_read_cons,
      popScript_write_cons]

/-- Settles O17: the window is 256 bytes wide, so an address in it is `BASE` plus exactly one offset, and a host step reads
of an access's target that offset only. -/
theorem addressDecodingIsTheWindow : Obligations.AddressDecodingIsTheWindow :=
  ⟨base_mod, windowOffset_eq_some_iff, regAt_eq_of_slot_eq,
    fun _ off w v e hh => stepWith_target_congr hh (targetOffset_busAddr off) w v e⟩

/-! ## The command in flight (20_memory.md R59) -/

/-- The latched word, that it is in flight, and the registers a command reads. -/
def commandView (s : State) :
    Option Word × Bool × BitVec 4 × LangCode × BitBuffer × Bool × Vector Word 8 × BitVec 6 :=
  (s.cmdq, s.busy, s.ctrlCs, s.ctrlLang, s.buf, s.ckv, s.win, s.winLen)

/-- While busy, a host step other than reset keeps all that the command in flight is and reads. -/
theorem hostStep_commandView {op : HostOp} {s t : State} (hb : s.busy = true) (notReset : op ≠ .assertReset)
    (h : hostStep op s = .next t) : commandView t = commandView s := by
  rcases hostStep_next h with
    ⟨_, _, _, _, -, -, rfl⟩ | ⟨_, _, v, off, -, -, rfl⟩ | ⟨-, -, rfl⟩ | ⟨isReset, -⟩ | ⟨-, rfl⟩
  · rfl
  · obtain ⟨o, written⟩ := busWrite_busy (s := elapse s) hb off v
    rw [written]
    rfl
  · rfl
  · exact absurd isReset notReset
  · rfl

/-- Settles O18: the host's step keeps `commandView`, and a step in which nothing moves keeps everything. -/
theorem hostStepsCannotChangeTheCommandInFlight : Obligations.HostStepsCannotChangeTheCommandInFlight := by
  intro s t hb hostNext notReset h
  have kept : commandView t = commandView s := by
    rcases step_next h with ⟨engineNext, -⟩ | ⟨-, op, taken, hop⟩ | ⟨-, -, rfl⟩
    · rw [hostNext] at engineNext
      cases engineNext
    · exact hostStep_commandView hb (fun isReset => notReset ⟨hostNext, isReset ▸ taken⟩) hop
    · rfl
  simp only [commandView, Prod.mk.injEq] at kept
  rwa [hb] at kept

end Sys2Proof.Safety

/-! # Proofs of the statements of 30_encoding.md

First a layer of facts about command words: a row of the opcode map matches exactly the words its commands encode to
(`rowMatches_iff_encode`), so that decoding and encoding are inverse (`decode_eq_ok_iff`). Then facts about runs: a command
issued, waited for and performed, and a sequence of writes. The statements are settled from these. -/

namespace Sys2Proof

/-! ## Command words (30_encoding.md R62 to R67) -/

/-- A word is a command's exactly when its fields are. -/
theorem encode_eq_iff (i : Instr) (w : Word) : encode i = w ↔ fieldsOf w = encodeFields i := by
  constructor
  · rintro rfl
    exact fieldsOf_assemble _
  · intro h
    rw [encode, ← h, assemble_fieldsOf]

/-- A command's word has the command's fields. -/
theorem fieldsOf_encode (i : Instr) : fieldsOf (encode i) = encodeFields i := fieldsOf_assemble _

/-- A row of the opcode map matches a word exactly when the word is that of the row's command, its operands the word's own
fields: the mask leaves out the command's operand fields and nothing else (30_encoding.md R64). -/
theorem rowMatches_iff_encode {r : OpcodeRow} (hr : r ∈ opcodeMap) (w : Word) :
    rowMatches w r = true ↔ encode (r.command (wordK w) (wordIdx w)) = w := by
  have whole3 (x : BitVec 3) : x &&& 7#3 = x := BitVec.and_allOnes
  have whole5 (x : BitVec 5) : x &&& 31#5 = x := BitVec.and_allOnes
  have whole8 (x : BitVec 8) : x &&& 255#8 = x := BitVec.and_allOnes
  have whole11 (x : BitVec 11) : x &&& 2047#11 = x := BitVec.and_allOnes
  rw [rowMatches_iff_fields, encode_eq_iff]
  simp only [opcodeMap, List.mem_cons, List.not_mem_nil, or_false] at hr
  rcases hr with rfl | rfl | rfl | rfl | rfl | rfl | rfl | rfl | rfl <;>
    simp [fieldsOf, wordK, wordIdx, wordOp, encodeFields, whole3, whole5, whole8, whole11]

/-- Every command is that of some row of the opcode map, its operands those of its word's fields (30_encoding.md R63). -/
theorem exists_row (i : Instr) : ∃ r ∈ opcodeMap, r.command (wordK (encode i)) (wordIdx (encode i)) = i := by
  have fieldK : wordK (encode i) = (encodeFields i).k := congrArg Fields.k (fieldsOf_encode i)
  have fieldIdx : wordIdx (encode i) = (encodeFields i).idx := congrArg Fields.idx (fieldsOf_encode i)
  rw [fieldK, fieldIdx]
  cases i <;> simp [opcodeMap, encodeFields]

/-- The low 8 bits of a word, its opcode, tell which row can match it: every mask covers them, and no pattern has a 1
elsewhere (30_encoding.md R67). -/
theorem pattern_of_match {w : Word} {r : OpcodeRow} (hr : r ∈ opcodeMap) (h : w &&& r.mask = r.pattern) :
    r.pattern = w &&& 0xFF#32 := by
  have covers : ∀ r ∈ opcodeMap, r.mask &&& 0xFF#32 = 0xFF#32 ∧ r.pattern &&& 0xFF#32 = r.pattern := by decide
  obtain ⟨mask, pattern⟩ := covers r hr
  rw [← pattern, ← h, BitVec.and_assoc, mask]

/-- No two rows have the same pattern. -/
theorem row_eq_of_pattern_eq {r r' : OpcodeRow} (hr : r ∈ opcodeMap) (hr' : r' ∈ opcodeMap)
    (h : r.pattern = r'.pattern) : r = r' :=
  List.inj_on_of_nodup_map (f := OpcodeRow.pattern) (by decide) hr hr' h

/-- A command's word decodes to it (30_encoding.md R64). -/
theorem decode_encode (i : Instr) : decode (encode i) = .ok i := by
  obtain ⟨r, hr, hi⟩ := exists_row i
  have hm : rowMatches (encode i) r = true := (rowMatches_iff_encode hr _).mpr (congrArg encode hi)
  cases hd : opcodeMap.find? (rowMatches (encode i)) with
  | none => exact absurd hm (List.find?_eq_none.mp hd r hr)
  | some r' =>
    have hr' : r' ∈ opcodeMap := List.mem_of_find?_eq_some hd
    have hm' : rowMatches (encode i) r' = true := List.find?_some hd
    have same : r' = r := row_eq_of_pattern_eq hr' hr <|
      (pattern_of_match hr' (beq_iff_eq.mp hm')).trans (pattern_of_match hr (beq_iff_eq.mp hm)).symm
    rw [decode, hd, same]
    exact congrArg Except.ok hi

/-- Decoding and encoding are inverse: a word decodes to a command exactly when it is the command's word. -/
theorem decode_eq_ok_iff (w : Word) (i : Instr) : decode w = .ok i ↔ encode i = w := by
  constructor
  · intro h
    obtain ⟨r, hr, hm, rfl⟩ := Machine.decode_ok h
    exact (rowMatches_iff_encode hr w).mp hm
  · rintro rfl
    exact decode_encode i

/-- A word that no row matches is rejected (30_encoding.md R66, R67). -/
theorem decode_of_no_match {w : Word} (h : ∀ r ∈ opcodeMap, w &&& r.mask ≠ r.pattern) :
    decode w = .error (rejection w) := by
  have none : opcodeMap.find? (rowMatches w) = none :=
    List.find?_eq_none.mpr fun r hr hm => h r hr (beq_iff_eq.mp hm)
  rw [decode, none]

/-- The fields of every command's word obey the zero-field rule (30_encoding.md R65). -/
theorem encodeFields_wellFormed (i : Instr) : (encodeFields i).wellFormed = true := by
  cases i with
  | nop => exact Laws.EncodedFields.nop.2
  | checksum => exact Laws.EncodedFields.checksum.2
  | extract k => exact (Laws.EncodedFields.extract k).2
  | wordAt i => exact (Laws.EncodedFields.wordAt i).2
  | indexOf p => exact (Laws.EncodedFields.indexOf p).2
  | begin n => exact (Laws.EncodedFields.begin n).2
  | pack k i => exact (Laws.EncodedFields.pack k i).2
  | verify => exact Laws.EncodedFields.verify.2
  | wipe => exact Laws.EncodedFields.wipe.2

/-- Fields that obey the zero-field rule are those of a command's word: one command for each assigned opcode
(30_encoding.md R65). -/
theorem exists_encodeFields {f : Fields} (h : f.wellFormed = true) : ∃ i, encodeFields i = f := by
  obtain ⟨r2, idx, r1, k, op⟩ := f
  simp only [Fields.wellFormed, Bool.and_eq_true, decide_eq_true_eq, beq_iff_eq, Bool.or_eq_true] at h
  obtain ⟨⟨⟨⟨assigned, rfl⟩, rfl⟩, hk⟩, hidx⟩ := h
  have opcodes : op = 0#8 ∨ op = 1#8 ∨ op = 2#8 ∨ op = 3#8 ∨ op = 4#8 ∨ op = 5#8 ∨ op = 6#8 ∨ op = 7#8 ∨ op = 8#8 := by
    bv_omega
  rcases opcodes with rfl | rfl | rfl | rfl | rfl | rfl | rfl | rfl | rfl <;> simp [usesK, usesIdx] at hk hidx
  · exact ⟨.nop, by simp [encodeFields, hk, hidx]⟩
  · exact ⟨.checksum, by simp [encodeFields, hk, hidx]⟩
  · exact ⟨.extract k, by simp [encodeFields, hidx]⟩
  · exact ⟨.wordAt idx, by simp [encodeFields, hk]⟩
  · exact ⟨.indexOf k, by simp [encodeFields, hidx]⟩
  · exact ⟨.begin k, by simp [encodeFields, hidx]⟩
  · exact ⟨.pack k idx, rfl⟩
  · exact ⟨.verify, by simp [encodeFields, hk, hidx]⟩
  · exact ⟨.wipe, by simp [encodeFields, hk, hidx]⟩

/-- Commands by their operands: four have none, three a field `K`, one a field `IDX`, one both (30_encoding.md R64). -/
def instrEquivOperands :
    Instr ≃ Fin 4 ⊕ Fin 3 × BitVec 5 ⊕ BitVec 11 ⊕ BitVec 5 × BitVec 11 where
  toFun
    | .nop => .inl 0
    | .checksum => .inl 1
    | .verify => .inl 2
    | .wipe => .inl 3
    | .extract k => .inr (.inl (0, k))
    | .indexOf p => .inr (.inl (1, p))
    | .begin n => .inr (.inl (2, n))
    | .wordAt i => .inr (.inr (.inl i))
    | .pack k i => .inr (.inr (.inr (k, i)))
  invFun
    | .inl 0 => .nop
    | .inl 1 => .checksum
    | .inl 2 => .verify
    | .inl 3 => .wipe
    | .inr (.inl (0, k)) => .extract k
    | .inr (.inl (1, p)) => .indexOf p
    | .inr (.inl (2, n)) => .begin n
    | .inr (.inr (.inl i)) => .wordAt i
    | .inr (.inr (.inr (k, i))) => .pack k i
  left_inv i := by cases i <;> rfl
  right_inv
    | .inl n => by fin_cases n <;> rfl
    | .inr (.inl (n, _)) => by fin_cases n <;> rfl
    | .inr (.inr (.inl _)) => rfl
    | .inr (.inr (.inr _)) => rfl

/-- There are 67,684 commands: 4 + 3·32 + 2048 + 32·2048 (30_encoding.md R66). -/
theorem card_instr : Nat.card Instr = 67684 := by
  rw [Nat.card_congr instrEquivOperands]
  simp [← FinEnum.card_eq_fintypeCard (α := BitVec _)]

/-- Different commands have different words. -/
theorem encode_injective : Function.Injective encode := by
  intro i j h
  have hi := decode_encode i
  rw [h, decode_encode] at hi
  exact (Except.ok.inj hi).symm

/-! ## Command pseudo-instructions (30_encoding.md R70) -/

/-- A word whose reserved fields are 0 is its opcode and its operands, each shifted to its place: the operands fit their
fields, so no bit of one falls into another's (30_encoding.md R62). -/
theorem assemble_eq_or (op : BitVec 8) {k i : Nat} (hk : k ≤ 31) (hi : i ≤ 2047) :
    assemble ⟨0#5, BitVec.ofNat 11 i, 0#3, BitVec.ofNat 5 k, op⟩ =
      op.setWidth 32 ||| Machine.fieldAt 8 k ||| Machine.fieldAt 16 i := by
  refine BitVec.eq_of_getLsbD_eq fun j hj => ?_
  have opEnd (h : 8 ≤ j) : op.getLsbD j = false := BitVec.getLsbD_of_ge _ _ h
  have kEnd (h : 13 ≤ j) : k.testBit (j - 8) = false :=
    have := Nat.pow_le_pow_right two_pos (show 5 ≤ j - 8 by omega)
    Nat.testBit_lt_two_pow (by omega)
  have iEnd (h : 27 ≤ j) : i.testBit (j - 16) = false :=
    have := Nat.pow_le_pow_right two_pos (show 11 ≤ j - 16 by omega)
    Nat.testBit_lt_two_pow (by omega)
  rw [assemble_getLsbD]
  simp only [Machine.fieldAt, BitVec.getLsbD_or, BitVec.getLsbD_setWidth, BitVec.getLsbD_shiftLeft, BitVec.getLsbD_ofNat, hj]
  grind

end Sys2Proof

namespace Sys2Proof.Machine

/-! ## Runs -/

/-- A run goes on from where its first step ends. -/
theorem run_succ {s t : State} (h : step s = .next t) (n : Nat) : core.run (n + 1) s = core.run n t := by
  have step_core : core.step s = .next t := h
  simp only [Host.Core.run, step_core]

/-- A run cut in two is its second part, from where the first one ends. -/
theorem run_add {m : Nat} {s t : State} (h : core.run m s = .next t) (n : Nat) :
    core.run (m + n) s = core.run n t := by
  induction m generalizing s with
  | zero => rw [Nat.zero_add, (Host.Outcome.next.inj h : s = t)]
  | succ m ih =>
    rw [Nat.succ_add]
    simp only [Host.Core.run] at h ⊢
    split at h
    · exact ih h
    · cases h
    · cases h

/-- A word that no row matches is performed as `IllegalCommand` (30_encoding.md R66). -/
theorem performWord_error {w : Word} {e : DecodeError} (h : decode w = .error e) (s : State) :
    performWord w s = .next (finish (.error .illegalCommand) s) := by
  rw [performWord, h]
  rfl

/-- A legal word is performed as the command it decodes to (40_lifecycle.md R77). -/
theorem performWord_ok {w : Word} {i : Instr} (h : decode w = .ok i) (s : State) : performWord w s = exec i s := by
  rw [performWord, h]

/-- The engine's step, when a word is latched. -/
theorem step_performWord {s : State} {w : Word} (hb : s.busy = true) (next : s.delay = 0 ∨ s.script = [])
    (hw : s.cmdq = some w) : step s = performWord w s := by
  rw [step_engine ((engineMovesNext_iff s).mpr ⟨hb, next⟩), perform, hw]

/-! ## Host steps -/

/-- While no command is in flight a host step passes without a trace. -/
theorem elapse_idle {s : State} (h : s.busy = false) : elapse s = s := by
  rw [elapse, if_neg (by simp [h])]

/-- `STATUS` reads as its fields in every state, busy or not (40_lifecycle.md R78). -/
theorem busReadValue_status (s : State) : busReadValue (regOffset .status) s = statusWord s := by
  have status : regAt (regOffset .status) = .status := rfl
  simp [busReadValue, readIsDraw, status, readableWhileBusy, readReg]

/-- Bit 0 of `STATUS` is `BUSY` (10_state.md R26). -/
theorem statusWord_bit0 (s : State) : (statusWord s).getLsbD 0 = s.busy := by
  have h := BitVec.getLsbD_append (y := BitVec.ofBool s.busy) (i := 0)
    (x := 0#20 ++ s.ecode ++ 0#2 ++ BitVec.ofBool s.ovr ++ BitVec.ofBool s.found ++ BitVec.ofBool s.ckv ++
      BitVec.ofBool s.err ++ BitVec.ofBool s.done)
  rw [statusWord]
  simpa using h

/-- What `poll` records of one read of `STATUS`. -/
def statusResponse (s : State) : Response := ⟨0x08#8, statusWord s, none⟩

/-- A poll reads `STATUS` and is done when the block is not busy (30_encoding.md R70). -/
theorem pollOnce_status (s : State) :
    pollOnce (regOffset .status) s =
      { elapse s with
        script := if s.busy then s.script else s.script.tail, responses := s.responses ++ [statusResponse s] } := by
  have noDraw : readIsDraw (regAt (regOffset .status)) s = false := Bool.and_false _
  rw [pollOnce, recordRead, noDraw, busReadValue_status, statusWord_bit0]
  rfl

section Poll

variable {s : State} {rest : List HostOp} (hs : s.script = .poll :: rest) (hr : s.resetLine = false)
include hs hr

/-- The step in which the host polls. -/
theorem step_poll (host : s.busy = false ∨ s.delay ≠ 0) : step s = .next (pollOnce (regOffset .status) s) := by
  have hostNext : engineMovesNext s = false := by
    rcases host with h | h <;> simp [engineMovesNext, h, hs]
  rw [step_host hostNext hs, hostStep_poll hr]

/-- A poll while busy stays the host's next operation, and one host step of the latency passes. -/
theorem step_poll_busy (hb : s.busy = true) {d : Nat} (hd : s.delay = d + 1) :
    step s = .next { s with delay := d, responses := s.responses ++ [statusResponse s] } := by
  rw [step_poll hs hr (.inr (by omega)), pollOnce_status, elapse]
  simp only [hb, hd, if_true, Nat.add_sub_cancel]

/-- A poll while not busy is done. -/
theorem step_poll_idle (hb : s.busy = false) :
    step s = .next { s with script := rest, responses := s.responses ++ [statusResponse s] } := by
  rw [step_poll hs hr (.inl hb), pollOnce_status, elapse_idle hb, if_neg (by simp [hb]), hs]
  rfl

/-- Polling lets the latency of the command in flight pass, and changes nothing but what the host has read. -/
theorem run_poll_busy (hb : s.busy = true) :
    ∃ rs, core.run s.delay s = .next { s with delay := 0, responses := rs } := by
  induction hd : s.delay generalizing s with
  | zero =>
    have same : { s with delay := 0, responses := s.responses } = s := by rw [← hd]
    exact ⟨s.responses, congrArg _ same.symm⟩
  | succ d ih =>
    obtain ⟨rs, h⟩ := ih (s := { s with delay := d, responses := s.responses ++ [statusResponse s] }) hs hr hb rfl
    exact ⟨rs, by rw [run_succ (step_poll_busy hs hr hb hd), h]⟩

end Poll

/-- A command touches neither the reset input nor the host's program and what it has read. -/
theorem Effect.keeps_host {s : State} {i : Instr} {p : State × Result} (h : Effect s i p) :
    p.1.resetLine = s.resetLine ∧ p.1.script = s.script ∧ p.1.responses = s.responses := by
  cases h <;> exact ⟨rfl, rfl, rfl⟩

/-- The engine performs the command whose latency has passed, and the poll that waits for it is done
(40_lifecycle.md R77, 30_encoding.md R70). -/
theorem run_perform_poll {s v : State} {i : Instr} {rest : List HostOp} (hs : s.script = .poll :: rest)
    (hr : s.resetLine = false) (hb : s.busy = true) (hd : s.delay = 0) (hw : s.cmdq = some (encode i))
    (h : exec i s = .next v) :
    core.run 2 s = .next { v with script := rest, responses := s.responses ++ [statusResponse v] } := by
  have performed : step s = .next v := by
    rw [step_performWord hb (.inl hd) hw, performWord_ok (decode_encode i), h]
  obtain ⟨p, hp, rfl⟩ := exec_effect h
  obtain ⟨resetLine, script, responses⟩ := hp.keeps_host
  have polled := step_poll_idle (s := finish p.2 p.1) (script.trans hs) (resetLine.trans hr) rfl
  rw [run_succ performed, run_succ polled, finish_responses, responses]
  rfl

/-- Once each register of `WIN` is written, nothing of what was there before is left (10_state.md R33). -/
theorem foldl_set_packWord (b : List Byte) (win : Vector Word 8) :
    (List.finRange 8).foldl (fun win i => win.set i.val (packWord b i.val)) win = packBytes b := by
  obtain ⟨⟨regs⟩, size⟩ := win
  match regs, size with
  | [_, _, _, _, _, _, _, _], _ => rfl

end Sys2Proof.Machine

namespace Sys2Proof.Safety

open Sys2Proof.Machine

/-! ## Writes while not busy -/

/-- The step of an accepted write while not busy is the write of the register addressed (40_lifecycle.md R74). -/
theorem stepWith_write_idle {off : Offset} {s : State} (hb : s.busy = false) (hr : s.resetLine = false)
    (ha : off.toNat % 4 = 0) (v : Word) : stepWith (hostWrite off v) s = .next (writeReg (regAt off) v s) := by
  have written : busWrite off v s = writeReg (regAt off) v s := by simp [busWrite, hb]
  rw [stepWith_write (.inl hb) hr ha, popScript_write_cons, elapse_idle hb, written, ← writeReg_script]

/-- Writes of values to registers of `WIN`, in order. -/
def winWrites (value : Fin 8 → Word) (is : List (Fin 8)) : List HostOp :=
  is.map fun i => hostWrite (regOffset (.win i)) (value i)

/-- `setword` writes `WIN_LEN` and then each register of `WIN` (30_encoding.md R70). -/
theorem expand_setword (b : List Byte) :
    expand (.setword b) =
      hostWrite (regOffset .winLen) (BitVec.ofNat 32 b.length) ::
        winWrites (fun i => packWord b i.val) (List.finRange 8) := rfl

/-- Writes to `WIN` while not busy change the registers written and no other. -/
theorem run_winWrites (value : Fin 8 → Word) (is : List (Fin 8)) {s : State} (hb : s.busy = false)
    (hr : s.resetLine = false) :
    core.run is.length { s with script := winWrites value is ++ s.script } =
      .next { s with win := is.foldl (fun win i => win.set i.val (value i)) s.win } := by
  induction is generalizing s with
  | nil => rfl
  | cons i is ih =>
    have aligned : (regOffset (.win i)).toNat % 4 = 0 := by revert i; decide
    have register : regAt (regOffset (.win i)) = .win i := by revert i; decide
    have written :=
      stepWith_write_idle (s := { s with script := winWrites value is ++ s.script }) hb hr aligned (value i)
    rw [register] at written
    exact (run_succ written is.length).trans (ih (s := writeReg (.win i) (value i) s) hb hr)

/-! ## The statements -/

/-- Settles O2: some row gives the command back from its word, and no other row matches that word. -/
theorem decodeInvertsEncode : Obligations.DecodeInvertsEncode := decode_encode

/-- Settles O3: a row matches only the words its commands encode to. -/
theorem encodeInvertsDecode : Obligations.EncodeInvertsDecode := fun w i => (decode_eq_ok_iff w i).mp

/-- Settles O4: a word decodes exactly when its fields are those of a command, and these are the well-formed ones. -/
theorem legalWordsAreTheWellFormedFields : Obligations.LegalWordsAreTheWellFormedFields := by
  intro w
  simp only [decode_eq_ok_iff, encode_eq_iff]
  constructor
  · rintro ⟨i, h⟩
    exact h ▸ encodeFields_wellFormed i
  · intro h
    obtain ⟨i, hi⟩ := exists_encodeFields h
    exact ⟨i, hi.symm⟩

/-- Settles O5: every pattern that matches a word is the word's opcode. -/
theorem atMostOneRowMatches : Obligations.AtMostOneRowMatches := fun _ _ hr _ hr' h h' =>
  (pattern_of_match hr h).trans (pattern_of_match hr' h').symm

/-- Settles O6: the legal words are the range of the encoder, which is injective, so they are as many as the commands. -/
theorem legalWordsNumber67684 : Obligations.LegalWordsNumber67684 := by
  have legal : { w : Word | ∃ i, decode w = .ok i } = Set.range encode :=
    Set.ext fun w => exists_congr fun i => decode_eq_ok_iff w i
  calc Nat.card { w : Word | ∃ i, decode w = .ok i }
    _ = Nat.card (Set.range encode) := by rw [legal]
    _ = Nat.card Instr := Nat.card_range_of_injective encode_injective
    _ = 67684 := card_instr

/-- Settles O7: the commands without operands by evaluation, the others because their words are built from the
shifted operands. -/
theorem pseudoInstructionsWriteTheCommandWords : Obligations.PseudoInstructionsWriteTheCommandWords := by
  intro k i hk hi
  have both (op : BitVec 8) := assemble_eq_or op hk hi
  have onlyK (op : BitVec 8) := assemble_eq_or op hk (Nat.zero_le 2047)
  have onlyIdx (op : BitVec 8) := assemble_eq_or op (Nat.zero_le 31) hi
  refine ⟨rfl, rfl, ?_, ?_, ?_, ?_, ?_, rfl, rfl⟩ <;>
    simp [expand, opCommand, opWrite, hostWrite, regOffset, encode, encodeFields, both, onlyK, onlyIdx, fieldAt]

/-- Settles O9: a word without a row is rejected, and `finish` writes the report and nothing else. -/
theorem illegalWordChangesOnlyTheReport : Obligations.IllegalWordChangesOnlyTheReport := by
  intro s w hb next hw illegal
  rw [step_performWord hb next hw, performWord_error (decode_of_no_match illegal)]
  rfl

/-- Settles O22: the write issues the command, polls let its latency pass, the engine performs it, and one more poll reads
`BUSY = 0`. -/
theorem commandPseudoInstructionCompletes : Obligations.CommandPseudoInstructionCompletes := by
  intro s i hb hr
  let issued : State := issue (encode i) { s with script := .poll :: s.script }
  have written : stepWith (hostWrite 0x0C#8 (encode i)) { s with script := .poll :: s.script } = .next issued :=
    stepWith_write_idle (s := { s with script := .poll :: s.script }) hb hr rfl _
  obtain ⟨rs, waited⟩ := run_poll_busy (s := issued) rfl hr rfl
  let ready : State := { issued with delay := 0, responses := rs }
  obtain ⟨v, performed⟩ : ∃ v, exec i ready = .next v := ⟨_, exec_eq i ready⟩
  have polled := run_perform_poll (s := ready) rfl hr rfl rfl rfl performed
  refine ⟨issued.delay + 2 + 1, 0, issued.delays, issued.draws, rs, v, performed, ?_⟩
  exact (run_succ written _).trans ((run_add waited 2).trans polled)

/-- Settles O60: one write to `WIN_LEN`, then one to each register of `WIN`. -/
theorem setwordStoresTheWord : Obligations.SetwordStoresTheWord := by
  intro s b hb hr _
  have lengthWritten := stepWith_write_idle (off := regOffset .winLen) (v := BitVec.ofNat 32 b.length)
    (s := { s with script := winWrites (fun i => packWord b i.val) (List.finRange 8) ++ s.script }) hb hr rfl
  have wordWritten := run_winWrites (fun i => packWord b i.val) (List.finRange 8)
    (s := { s with winLen := (BitVec.ofNat 32 b.length).extractLsb' 0 6 }) hb hr
  have length : (BitVec.ofNat 32 b.length).extractLsb' 0 6 = BitVec.ofNat 6 b.length := by
    refine BitVec.eq_of_toNat_eq ?_
    simp
  rw [foldl_set_packWord] at wordWritten
  rw [expand_setword, ← length]
  exact (run_succ lengthWritten 8).trans wordWritten

/-- Settles O1: each legal word is the one its command encodes to, and no row matches the two illegal words. -/
theorem decodesOneWordOfEachRow : Obligations.DecodesOneWordOfEachRow :=
  ⟨decode_encode .nop, decode_encode .checksum, decode_encode (.extract 11#5), decode_encode (.wordAt 2047#11),
    decode_encode (.indexOf 31#5), decode_encode (.begin 12#5), decode_encode (.pack 11#5 3#11), decode_encode .verify,
    decode_encode .wipe, decode_of_no_match (by decide), decode_of_no_match (by decide)⟩

end Sys2Proof.Safety

/-! # Proofs of the statements of 40_lifecycle.md

First a layer of facts: the window's slots, what a write does to a register and what a read returns, what a command writes
(its frame), how it can fail (`Effect.error`), and what it does to `CKV`. Then what a step does to `OVR`, to the command in
flight and to `CKV`. The statements are settled from these. -/

namespace Sys2Proof.Machine

/-! ## The window's slots (10_state.md R22) -/

/-- A register's offset addresses the register. -/
theorem regAt_regOffset (r : Reg) : regAt (regOffset r) = r := by
  cases r with
  | win i | wout i | buf i | dig i => revert i; decide
  | _ => rfl

/-- A register's offset is aligned. -/
theorem regOffset_aligned (r : Reg) : (regOffset r).toNat % 4 = 0 := by
  cases r with
  | win i | wout i | buf i | dig i => revert i; decide
  | _ => rfl

/-- The window has 64 slots. -/
theorem slot_lt (off : Offset) : off.toNat / 4 < 64 := by omega

/-- `STATUS` is one slot. -/
theorem regAtSlot_eq_status_iff : ∀ n < 64, regAtSlot n = .status ↔ n = 2 := by decide

/-- An aligned offset addresses `STATUS` exactly when it is 0x08. -/
theorem regAt_eq_status_iff {off : Offset} (ha : off.toNat % 4 = 0) : regAt off = .status ↔ off = 0x08#8 := by
  rw [regAt, regAtSlot_eq_status_iff _ (slot_lt off), ← BitVec.toNat_inj]
  simp only [BitVec.toNat_ofNat]
  omega

/-- The reserved slots. -/
theorem regAtSlot_eq_reserved_iff :
    ∀ n < 64, regAtSlot n = .reserved ↔ (26 ≤ n ∧ n ≤ 31) ∨ (41 ≤ n ∧ n ≤ 47) ∨ 56 ≤ n := by decide

/-- The slots whose reads return their values even while busy (40_lifecycle.md R78). -/
theorem readableWhileBusy_regAtSlot_iff :
    ∀ n < 64, readableWhileBusy (regAtSlot n) = true ↔
      n ∈ [0, 2, 3, 7, 26, 27, 28, 29, 30, 31, 41, 42, 43, 44, 45, 46, 47, 56, 57, 58, 59, 60, 61, 62, 63] := by decide

/-- The registers that ignore an accepted write: read-only ones and reserved offsets (40_lifecycle.md R74). -/
def ignoresWrites : Reg → Bool
  | .id | .index | .cksum | .errinfo | .langs | .woutLen | .wout _ | .dig _ | .reserved => true
  | .ctrl | .status | .cmd | .winLen | .win _ | .buf _ | .buf8 => false

theorem writeReg_of_ignoresWrites {r : Reg} (h : ignoresWrites r = true) (v : Word) (s : State) : writeReg r v s = s := by
  cases r with
  | ctrl | status | cmd | winLen | win | buf | buf8 => cases h
  | _ => rfl

/-- The slots of the registers that ignore writes. -/
theorem ignoresWrites_regAtSlot_iff :
    ∀ n < 64, ignoresWrites (regAtSlot n) = true ↔ n = 0 ∨ (4 ≤ n ∧ n ≤ 7) ∨ (17 ≤ n ∧ n ≤ 31) ∨ 41 ≤ n := by decide

/-! ## What a write does to a register (40_lifecycle.md R74, R75) -/

/-- A write to `CTRL` clears `CKV` when it changes `CS`. -/
theorem writeReg_ctrl (v : Word) (s : State) :
    writeReg .ctrl v s =
      { s with
        ctrlCs := v.extractLsb' 0 4, ctrlLang := v.extractLsb' 4 4,
        ckv := if v.extractLsb' 0 4 = s.ctrlCs then s.ckv else false } := by
  by_cases h : v.extractLsb' 0 4 = s.ctrlCs <;> simp [writeReg, h]

/-- A write to `STATUS` clears `OVR` by bit 5. -/
theorem writeReg_status (v : Word) (s : State) :
    writeReg .status v s = { s with ovr := if v.getLsbD 5 then false else s.ovr } := by
  simp only [writeReg]
  cases v.getLsbD 5 <;> simp

/-- Only `STATUS` has a write that reaches `OVR`. -/
theorem writeReg_ovr {r : Reg} (h : r ≠ .status) (v : Word) (s : State) : (writeReg r v s).ovr = s.ovr := by
  cases r with
  | status => exact absurd rfl h
  | _ => rfl

/-- A write reaches `STATUS`, busy or not (40_lifecycle.md R75). -/
theorem busWrite_status {off : Offset} (h : regAt off = .status) (v : Word) (s : State) :
    busWrite off v s = { s with ovr := if v.getLsbD 5 then false else s.ovr } := by
  rw [← writeReg_status]
  simp [busWrite, h]

/-- While busy, a write to any other register is dropped and sets `OVR` (40_lifecycle.md R79). -/
theorem busWrite_dropped {off : Offset} {s : State} (hb : s.busy = true) (h : regAt off ≠ .status) (v : Word) :
    busWrite off v s = { s with ovr := true } := by
  simp [busWrite, hb, h]

/-- The bits of a word's most significant byte are the word's first. -/
theorem topByte_getMsbD (v : Word) {t : Nat} (ht : t < 8) : (v.extractLsb' 24 8).getMsbD t = v.getMsbD t := by
  have bit : 24 + (8 - 1 - t) = 32 - 1 - t := by omega
  have lt : 8 - 1 - t < 8 := by omega
  have lt' : t < 32 := by omega
  simp only [BitVec.getMsbD_eq_getLsbD, BitVec.getLsbD_extractLsb', ht, lt, lt', bit, decide_true, Bool.true_and]

/-- A write to `BUF8` stores the word's most significant byte as stream bits 256 .. 263 (10_state.md R36). -/
theorem streamPut_topByte_getMsbD (b : BitBuffer) (v : Word) {j : Nat} (hj : j < 264) :
    (streamPut b 256 (v.extractLsb' 24 8)).getMsbD j = if 256 ≤ j then v.getMsbD (j - 256) else b.getMsbD j := by
  have inRange : 256 ≤ j ∧ j < 256 + 8 ↔ 256 ≤ j := by omega
  have inByte : j - 256 < 8 := by omega
  rw [streamPut_getMsbD b 256 _ j (by omega) hj, topByte_getMsbD v inByte]
  simp only [inRange]

/-! ## What a read returns (40_lifecycle.md R73) -/

/-- While not busy, a read returns the register addressed. -/
theorem busReadValue_idle {s : State} (hb : s.busy = false) (off : Offset) :
    busReadValue off s = readReg (regAt off) s := by
  simp [busReadValue, readIsDraw, hb]

/-- While not busy, a read of a register's offset returns the register. -/
theorem busReadValue_regOffset {s : State} (hb : s.busy = false) (r : Reg) :
    busReadValue (regOffset r) s = readReg r s := by
  rw [busReadValue_idle hb, regAt_regOffset]

/-- A register made of two fields is its fields, each shifted to its place. -/
theorem append_eq_or {m n : Nat} (x : BitVec m) (y : BitVec n) :
    x ++ y = x.setWidth (m + n) <<< n ||| y.setWidth (m + n) := by
  rw [← BitVec.setWidth_append_eq_shiftLeft_setWidth_or, BitVec.setWidth_eq]

/-- `CTRL` from its fields (10_state.md R25). -/
theorem readReg_ctrl (s : State) : readReg .ctrl s = (s.ctrlLang.setWidth 32 <<< 4 ||| s.ctrlCs.setWidth 32) := by
  have h := append_eq_or (0#24 ++ s.ctrlLang) s.ctrlCs
  rw [BitVec.setWidth_append_eq_shiftLeft_setWidth_or] at h
  simpa [readReg] using h

/-- `CKSUM` from its fields (10_state.md R29). -/
theorem readReg_cksum (s : State) : readReg .cksum s = (s.cksumLen.setWidth 32 <<< 8 ||| s.cksumVal.setWidth 32) := by
  have h := append_eq_or (0#20 ++ s.cksumLen) s.cksumVal
  rw [BitVec.setWidth_append_eq_shiftLeft_setWidth_or] at h
  simpa [readReg] using h

/-- `STATUS` from its fields (10_state.md R26). -/
theorem statusWord_eq_or (s : State) :
    statusWord s =
      (s.ecode.setWidth 32 <<< 8 ||| (BitVec.ofBool s.ovr).setWidth 32 <<< 5 |||
        (BitVec.ofBool s.found).setWidth 32 <<< 4 ||| (BitVec.ofBool s.ckv).setWidth 32 <<< 3 |||
        (BitVec.ofBool s.err).setWidth 32 <<< 2 ||| (BitVec.ofBool s.done).setWidth 32 <<< 1 |||
        (BitVec.ofBool s.busy).setWidth 32) := by
  have h := append_eq_or
    (0#20 ++ s.ecode ++ 0#2 ++ BitVec.ofBool s.ovr ++ BitVec.ofBool s.found ++ BitVec.ofBool s.ckv ++
      BitVec.ofBool s.err ++ BitVec.ofBool s.done) (BitVec.ofBool s.busy)
  simp only [BitVec.setWidth_append_eq_shiftLeft_setWidth_or, BitVec.shiftLeft_or_distrib, ← BitVec.shiftLeft_add] at h
  simpa [statusWord] using h

/-- The bits of `BUFi` are stream bits 32i .. 32i+31 (10_state.md R36). -/
theorem bufReg_getMsbD (b : BitBuffer) (i : Fin 8) {t : Nat} (ht : t < 32) :
    (bufReg b i.val).getMsbD t = b.getMsbD (32 * i.val + t) := by
  rw [bufReg, streamSlice_getMsbD _ _ _ _ (by omega)]
  simp [ht]

/-- The bits of `BUF8` are stream bits 256 .. 263 and then 0 (10_state.md R36). -/
theorem bufReg8_getMsbD (b : BitBuffer) (t : Nat) :
    (bufReg8 b).getMsbD t = (decide (t < 8) && b.getMsbD (256 + t)) := by
  have h := BitVec.getMsbD_append (x := streamSlice b 256 8) (y := 0#24) (i := t)
  rw [streamSlice_getMsbD _ _ _ _ (by omega)] at h
  rw [show (bufReg8 b).getMsbD t = (streamSlice b 256 8 ++ 0#24).getMsbD t from rfl, h]
  by_cases ht : t < 8 <;> simp [ht]

/-! ## What a command writes (40_lifecycle.md R80, R84) -/

section Frame

variable {s : State} {i : Instr} {p : State × Result} (h : Effect s i p)
include h

/-- No command writes `CTRL.LANG`, `OVR`, the latched word, or the model's own latencies and draws. -/
theorem Effect.keeps_block :
    p.1.ctrlLang = s.ctrlLang ∧ p.1.ovr = s.ovr ∧ p.1.cmdq = s.cmdq ∧ p.1.delay = s.delay ∧ p.1.delays = s.delays ∧
      p.1.draws = s.draws := by
  cases h <;> exact ⟨rfl, rfl, rfl, rfl, rfl, rfl⟩

/-- Only `BEGIN` writes `CTRL.CS` (10_state.md R25). -/
theorem Effect.keeps_ctrlCs (notBegin : ∀ n, i ≠ .begin n) : p.1.ctrlCs = s.ctrlCs := by
  cases h with
  | begin => exact absurd rfl (notBegin _)
  | _ => rfl

/-- Only `WIPE` writes `WIN` and `WIN_LEN`. -/
theorem Effect.keeps_win (notWipe : i ≠ .wipe) : p.1.win = s.win ∧ p.1.winLen = s.winLen := by
  cases h with
  | wipe => exact absurd rfl notWipe
  | _ => exact ⟨rfl, rfl⟩

/-- Only `WORD_AT` and `WIPE` write `WOUT` and `WOUT_LEN`. -/
theorem Effect.keeps_wout (notWordAt : ∀ j, i ≠ .wordAt j) (notWipe : i ≠ .wipe) :
    p.1.wout = s.wout ∧ p.1.woutLen = s.woutLen := by
  cases h with
  | wordAt => exact absurd rfl (notWordAt _)
  | wipe => exact absurd rfl notWipe
  | _ => exact ⟨rfl, rfl⟩

/-- Only `EXTRACT`, `INDEX_OF` and `WIPE` write `INDEX`. -/
theorem Effect.keeps_indexIdx (notExtract : ∀ k, i ≠ .extract k) (notIndexOf : ∀ k, i ≠ .indexOf k)
    (notWipe : i ≠ .wipe) : p.1.indexIdx = s.indexIdx := by
  cases h with
  | extract => exact absurd rfl (notExtract _)
  | indexFound => exact absurd rfl (notIndexOf _)
  | wipe => exact absurd rfl notWipe
  | _ => rfl

/-- Only `INDEX_OF` and `WIPE` write `FOUND`. -/
theorem Effect.keeps_found (notIndexOf : ∀ k, i ≠ .indexOf k) (notWipe : i ≠ .wipe) : p.1.found = s.found := by
  cases h with
  | indexFound | indexUnknown | indexLanguage => exact absurd rfl (notIndexOf _)
  | wipe => exact absurd rfl notWipe
  | _ => rfl

/-- Only `CHECKSUM`, `VERIFY`, `BEGIN` and `WIPE` write `DIG` and `CKSUM`, and only those and `PACK` write the bit buffer
and `CKV`. -/
theorem Effect.keeps_digest_and_buffer (notChecksum : i ≠ .checksum) (notVerify : i ≠ .verify)
    (notBegin : ∀ n, i ≠ .begin n) (notWipe : i ≠ .wipe) :
    p.1.dig = s.dig ∧ p.1.cksumVal = s.cksumVal ∧ p.1.cksumLen = s.cksumLen ∧
      ((∀ k j, i ≠ .pack k j) → p.1.buf = s.buf ∧ p.1.ckv = s.ckv) := by
  cases h with
  | checksum => exact absurd rfl notChecksum
  | verified | mismatch => exact absurd rfl notVerify
  | begin => exact absurd rfl (notBegin _)
  | wipe => exact absurd rfl notWipe
  | pack => exact ⟨rfl, rfl, rfl, fun notPack => absurd rfl (notPack _ _)⟩
  | _ => exact ⟨rfl, rfl, rfl, fun _ => ⟨rfl, rfl⟩⟩

end Frame

/-! ## How a command fails (40_lifecycle.md R82) -/

/-- A failed check is never reported as `ChecksumMismatch`. -/
theorem Rejects.errorCode_ne_checksumMismatch {s : State} {i : Instr} {e : CmdError} (h : Rejects s i e) :
    errorCode e ≠ 6#4 := by
  cases h <;> decide

/-- `INDEX_OF` has no check that fails before it clears `FOUND` (43_wordlist.md R110). -/
theorem Rejects.ne_indexOf {s : State} {i : Instr} {e : CmdError} (h : Rejects s i e) (k : BitVec 5) :
    i ≠ .indexOf k := by
  rintro rfl
  cases h

/-- A command that fails has left the state as it was, or it is `INDEX_OF` and has cleared `FOUND`, or it is a `VERIFY` whose
checksum does not match and has wiped. -/
theorem Effect.error {s t : State} {i : Instr} {e : CmdError} (h : Effect s i (t, .error e)) :
    (t = s ∧ (∀ k, i ≠ .indexOf k) ∧ errorCode e ≠ 6#4) ∨
    (t = { s with found := false } ∧ (∃ k, i = .indexOf k) ∧ errorCode e ≠ 6#4) ∨
    (t = clearBuffer s ∧ i = .verify ∧ e = .checksumMismatch) := by
  cases h with
  | rejected h => exact .inl ⟨rfl, h.ne_indexOf, h.errorCode_ne_checksumMismatch⟩
  | indexUnknown | indexLanguage => exact .inr (.inl ⟨rfl, ⟨_, rfl⟩, by simp [errorCode]⟩)
  | mismatch => exact .inr (.inr ⟨rfl, rfl, rfl⟩)

/-! ## What a command does to `CKV` (40_lifecycle.md R81) -/

/-- A successful `CHECKSUM` or `VERIFY` sets `CKV`. -/
theorem Effect.sets_ckv {s : State} {i : Instr} {p : State × Result} (h : Effect s i p)
    (hi : i = .checksum ∨ i = .verify) (ok : resultErr p.2 = false) : p.1.ckv = true := by
  cases h with
  | checksum | verified => rfl
  | rejected | indexUnknown | indexLanguage | mismatch => cases ok
  | _ => simp at hi

/-- A successful `BEGIN` clears `CKV`. -/
theorem Effect.begin_ckv {s : State} {n : BitVec 5} {p : State × Result} (h : Effect s (.begin n) p)
    (ok : resultErr p.2 = false) : p.1.ckv = false := by
  cases h with
  | rejected => cases ok
  | begin => rfl

/-- A successful `PACK` clears `CKV`. -/
theorem Effect.pack_ckv {s : State} {k : BitVec 5} {i : WordIndex} {p : State × Result} (h : Effect s (.pack k i) p)
    (ok : resultErr p.2 = false) : p.1.ckv = false := by
  cases h with
  | rejected => cases ok
  | pack => rfl

/-- `WIPE` clears `CKV`. -/
theorem Effect.wipe_ckv {s : State} {p : State × Result} (h : Effect s .wipe p) : p.1.ckv = false := by
  cases h with
  | rejected h => cases h
  | wipe => rfl

/-- A `VERIFY` that ends with `ChecksumMismatch` clears `CKV`. -/
theorem Effect.mismatch_ckv {s : State} {p : State × Result} (h : Effect s .verify p) (hc : resultCode p.2 = 6#4) :
    p.1.ckv = false := by
  cases h with
  | rejected h => exact absurd hc h.errorCode_ne_checksumMismatch
  | verified => cases hc
  | mismatch => rfl

/-! ## The engine's step, by the word it performs -/

/-- A step of the engine leaves the state its command's pseudocode left, or the one before it where the word is illegal, with
a report. -/
theorem perform_effect {s t : State} (h : perform s = .next t) :
    ∃ w, s.cmdq = some w ∧
      ((∃ i p, decode w = .ok i ∧ Effect s i p ∧ t = finish p.2 p.1) ∨
        ∃ e, decode w = .error e ∧ t = finish (.error .illegalCommand) s) := by
  obtain ⟨w, hw, ⟨i, hi, performed⟩ | illegal⟩ := perform_next h
  · obtain ⟨p, hp, ht⟩ := exec_effect performed
    exact ⟨w, hw, .inl ⟨i, p, hi, hp, ht⟩⟩
  · exact ⟨w, hw, .inr illegal⟩

/-- The engine's step keeps `OVR` (40_lifecycle.md R75). -/
theorem perform_ovr {s t : State} (h : perform s = .next t) : t.ovr = s.ovr := by
  obtain ⟨w, -, ⟨i, p, -, hp, rfl⟩ | ⟨e, -, rfl⟩⟩ := perform_effect h
  · obtain ⟨-, ovr, -⟩ := hp.keeps_block
    exact ovr
  · rfl

/-- While not busy, a write is the write of the register addressed (40_lifecycle.md R74). -/
theorem busWrite_idle {s : State} (hb : s.busy = false) (off : Offset) (v : Word) :
    busWrite off v (elapse s) = writeReg (regAt off) v s := by
  rw [elapse_idle hb]
  simp [busWrite, hb]

/-- The host's step for a write, where it is accepted. -/
theorem hostStep_write_next {tgt : Target} {w : Width} {v : Word} {s t : State}
    (h : hostStep (.write tgt w v) s = .next t) :
    ∃ off, acceptAccess tgt w s = .next off ∧ t = popScript (busWrite off v (elapse s)) := by
  rcases hostStep_next h with
    ⟨_, _, _, _, ⟨⟩, -⟩ | ⟨_, _, _, off, ⟨⟩, accepted, ht⟩ | ⟨⟨⟩, -⟩ | ⟨⟨⟩, -⟩ | ⟨⟨⟩, -⟩
  exact ⟨off, accepted, ht⟩

end Sys2Proof.Machine

namespace Sys2Proof.Safety

open Sys2Proof.Machine

/-! ## Host writes as the machine's step -/

/-- While not busy, the step of a write to a register's offset is the write of the register (40_lifecycle.md R74). -/
theorem stepWith_write_reg {s : State} (hb : s.busy = false) (hr : s.resetLine = false) (r : Reg) (v : Word) :
    stepWith (hostWrite (regOffset r) v) s = .next (writeReg r v s) := by
  rw [stepWith_write_idle hb hr (regOffset_aligned r), regAt_regOffset]

/-- The step of an accepted write, busy or not. -/
theorem stepWith_write_eq {off : Offset} {s : State} (hh : s.busy = false ∨ s.delay ≠ 0) (hr : s.resetLine = false)
    (ha : off.toNat % 4 = 0) (v : Word) :
    stepWith (hostWrite off v) s = .next { busWrite off v (elapse s) with script := s.script } := by
  rw [stepWith_write hh hr ha, popScript_write_cons]

/-- While busy, one host step of the latency passes (log 2). -/
theorem elapse_busy {s : State} (h : s.busy = true) : elapse s = { s with delay := s.delay - 1 } := by
  rw [elapse, if_pos h]

/-- The end of a command that fails is its report, on the state its pseudocode left. -/
theorem finish_error (e : CmdError) (s : State) :
    finish (.error e) s = reportError (errorCode e) (resultPos (.error e)) s := rfl

/-! ## `OVR` (40_lifecycle.md R75) -/

/-- A host step that takes `OVR` from 1 to 0 is a reset or an accepted `STATUS` write with bit 5 = 1. -/
theorem hostStep_clears_ovr {op : HostOp} {s t : State} (h : hostStep op s = .next t) (set : s.ovr = true)
    (cleared : t.ovr = false) :
    op = .assertReset ∨
      ∃ tgt off v, op = .write tgt .w32 v ∧ targetOffset tgt = some off ∧ regAt off = .status ∧ v.getLsbD 5 = true := by
  have kept {u : State} (hu : u.ovr = s.ovr) : u.ovr ≠ false := by simp [hu, set]
  rcases hostStep_next h with
    ⟨_, _, _, _, -, -, rfl⟩ | ⟨tgt, w, v, off, rfl, accepted, rfl⟩ | ⟨-, -, rfl⟩ | ⟨isReset, -⟩ | ⟨-, rfl⟩
  · exact absurd cleared (kept rfl)
  · obtain ⟨-, hoff, rfl, -⟩ := acceptAccess_next accepted
    by_cases status : regAt off = .status
    · refine .inr ⟨tgt, off, v, rfl, hoff, status, ?_⟩
      rw [popScript_ovr, busWrite_status status] at cleared
      refine by_contra fun bit => kept (u := elapse s) rfl ?_
      rwa [if_neg bit] at cleared
    · rcases busWrite_cases off v (elapse s) with ⟨-, -, dropped⟩ | ⟨-, written⟩
      · rw [popScript_ovr, dropped] at cleared
        cases cleared
      · rw [popScript_ovr, written] at cleared
        exact absurd cleared (kept (writeReg_ovr status v (elapse s)))
  · exact absurd cleared (kept rfl)
  · exact .inl isReset
  · exact absurd cleared (kept rfl)

/-! ## The command in flight (40_lifecycle.md R83) -/

/-- The accepted operations: aligned 32-bit accesses by offset, and polls. -/
theorem acceptedOp_cases {op : HostOp} (h : acceptedOp op = true) :
    (∃ off e, op = .read (.offset off) .w32 e ∧ off.toNat % 4 = 0) ∨
    (∃ off v, op = .write (.offset off) .w32 v ∧ off.toNat % 4 = 0) ∨ op = .poll := by
  cases op with
  | read tgt w e =>
    cases tgt with
    | busAddr => cases h
    | offset off =>
      cases w with
      | w32 => exact .inl ⟨off, e, rfl, of_decide_eq_true h⟩
      | _ => cases h
  | write tgt w v =>
    cases tgt with
    | busAddr => cases h
    | offset off =>
      cases w with
      | w32 => exact .inr (.inl ⟨off, v, rfl, of_decide_eq_true h⟩)
      | _ => cases h
  | poll => exact .inr (.inr rfl)
  | assertReset | releaseReset => cases h

/-- While busy and out of reset, an accepted operation is a host step that keeps the command in flight and lets one step of
its latency pass; the script goes on, or stays where a poll waits. -/
theorem hostStep_acceptedOp {op : HostOp} {s : State} (hop : acceptedOp op = true) (hb : s.busy = true)
    (hr : s.resetLine = false) :
    ∃ t, hostStep op s = .next t ∧ t.busy = true ∧ t.resetLine = false ∧ t.cmdq = s.cmdq ∧ t.delay = s.delay - 1 ∧
      (t.script = s.script ∨ t.script = s.script.tail) := by
  have delay : (elapse s).delay = s.delay - 1 := by rw [elapse_delay, if_pos hb]
  rcases acceptedOp_cases hop with ⟨off, e, rfl, ha⟩ | ⟨off, v, rfl, ha⟩ | rfl
  · exact ⟨_, hostStep_read hr ha, hb, hr, rfl, delay, .inr rfl⟩
  · obtain ⟨o, written⟩ := busWrite_busy (s := elapse s) hb off v
    have stepped := hostStep_write (v := v) hr ha
    rw [written] at stepped
    exact ⟨_, stepped, hb, hr, rfl, delay, .inr rfl⟩
  · refine ⟨_, hostStep_poll hr, ?_⟩
    rw [pollOnce_status, if_pos hb]
    exact ⟨hb, hr, rfl, delay, .inl rfl⟩

/-! ## `CKV` (40_lifecycle.md R81) -/

/-- The step in which the host takes an operation is the operation's. -/
theorem Takes.step_eq {op : HostOp} {s : State} (h : Takes op s) : step s = hostStep op s := by
  obtain ⟨hostNext, taken⟩ := h
  obtain ⟨rest, script⟩ := List.head?_eq_some_iff.mp taken
  exact step_host hostNext script

/-- The step in which the engine performs a command ends as one of the command's cases. -/
theorem Performs.effect {i : Instr} {s t : State} (h : Performs i s) (hs : step s = .next t) :
    ∃ p, Effect s i p ∧ t = finish p.2 p.1 := by
  obtain ⟨engineNext, w, hw, hi⟩ := h
  rw [step_engine engineNext, perform, hw] at hs
  exact exec_effect ((performWord_ok hi s).symm.trans hs)

/-- The step of an accepted write to a register writes the register (40_lifecycle.md R74). -/
theorem WritesReg.next {r : Reg} {v : Word} {s t : State} (h : WritesReg r v s) (hs : step s = .next t) :
    t = popScript (writeReg r v s) := by
  obtain ⟨hb, tgt, off, takes, hoff, rfl⟩ := h
  obtain ⟨off', accepted, rfl⟩ := hostStep_write_next (takes.step_eq.symm.trans hs)
  obtain ⟨-, hoff', -, -⟩ := acceptAccess_next accepted
  obtain rfl : off = off' := Option.some.inj (hoff.symm.trans hoff')
  rw [busWrite_idle hb]

/-- Each event listed as setting `CKV` sets it. -/
theorem CkvSetEvent.ckv {s t : State} (h : CkvSetEvent s t) (hs : step s = .next t) : t.ckv = true := by
  obtain ⟨performs | performs, ok⟩ := h
  · obtain ⟨p, hp, rfl⟩ := performs.effect hs
    exact hp.sets_ckv (.inl rfl) ok
  · obtain ⟨p, hp, rfl⟩ := performs.effect hs
    exact hp.sets_ckv (.inr rfl) ok

/-- Each event listed as clearing `CKV` clears it. -/
theorem CkvClearEvent.ckv {s t : State} (h : CkvClearEvent s t) (hs : step s = .next t) : t.ckv = false := by
  rcases h with
    ⟨v, i, writes⟩ | ⟨v, writes⟩ | ⟨v, writes, changed⟩ | ⟨n, performs, ok⟩ | ⟨k, i, performs, ok⟩ | performs |
      ⟨performs, code⟩ | takes
  · rw [writes.next hs]
    rfl
  · rw [writes.next hs]
    rfl
  · rw [writes.next hs, popScript_ckv, writeReg_ctrl]
    exact if_neg changed
  · obtain ⟨p, hp, rfl⟩ := performs.effect hs
    exact hp.begin_ckv ok
  · obtain ⟨p, hp, rfl⟩ := performs.effect hs
    exact hp.pack_ckv ok
  · obtain ⟨p, hp, rfl⟩ := performs.effect hs
    exact hp.wipe_ckv
  · obtain ⟨p, hp, rfl⟩ := performs.effect hs
    exact hp.mismatch_ckv code
  · obtain rfl := Host.Outcome.next.inj (takes.step_eq.symm.trans hs)
    rfl

/-- The end of a command keeps `CKV` or is one of the listed events. -/
theorem Performs.ckv_or_event {s : State} {i : Instr} {p : State × Result} (performs : Performs i s) (h : Effect s i p) :
    p.1.ckv = s.ckv ∨ CkvSetEvent s (finish p.2 p.1) ∨ CkvClearEvent s (finish p.2 p.1) := by
  cases h with
  | checksum => exact .inr (.inl ⟨.inl performs, rfl⟩)
  | verified => exact .inr (.inl ⟨.inr performs, rfl⟩)
  | begin => exact .inr (.inr (.inr (.inr (.inr (.inl ⟨_, performs, rfl⟩)))))
  | pack => exact .inr (.inr (.inr (.inr (.inr (.inr (.inl ⟨_, _, performs, rfl⟩))))))
  | wipe => exact .inr (.inr (.inr (.inr (.inr (.inr (.inr (.inl performs)))))))
  | mismatch => exact .inr (.inr (.inr (.inr (.inr (.inr (.inr (.inr (.inl ⟨performs, rfl⟩))))))))
  | _ => exact .inl rfl

/-- An accepted write keeps `CKV` or is one of the listed events. -/
theorem WritesReg.ckv_or_event {r : Reg} {v : Word} {s : State} (writes : WritesReg r v s) (t : State) :
    (writeReg r v s).ckv = s.ckv ∨ CkvClearEvent s t := by
  cases r with
  | buf i => exact .inr (.inl ⟨v, i, writes⟩)
  | buf8 => exact .inr (.inr (.inl ⟨v, writes⟩))
  | ctrl =>
    rw [writeReg_ctrl]
    by_cases same : v.extractLsb' 0 4 = s.ctrlCs
    · exact .inl (if_pos same)
    · exact .inr (.inr (.inr (.inl ⟨v, writes, same⟩)))
  | _ => exact .inl rfl

/-- A host step keeps `CKV` or is one of the listed events. -/
theorem Takes.ckv_or_event {op : HostOp} {s t : State} (takes : Takes op s) (h : hostStep op s = .next t) :
    t.ckv = s.ckv ∨ CkvClearEvent s t := by
  rcases hostStep_next h with
    ⟨_, _, _, _, -, -, rfl⟩ | ⟨tgt, w, v, off, rfl, accepted, rfl⟩ | ⟨-, -, rfl⟩ | ⟨rfl, -⟩ | ⟨-, rfl⟩
  · exact .inl rfl
  · obtain ⟨-, hoff, rfl, -⟩ := acceptAccess_next accepted
    cases hb : s.busy with
    | true =>
      obtain ⟨o, written⟩ := busWrite_busy (s := elapse s) hb off v
      rw [written]
      exact .inl rfl
    | false =>
      have writes : WritesReg (regAt off) v s := ⟨hb, tgt, off, takes, hoff, rfl⟩
      rw [busWrite_idle hb]
      exact writes.ckv_or_event _
  · exact .inl rfl
  · exact .inr (.inr (.inr (.inr (.inr (.inr (.inr (.inr takes)))))))
  · exact .inl rfl

/-- Every step keeps `CKV` or is one of the listed events. -/
theorem step_ckv_or_event {s t : State} (h : step s = .next t) :
    t.ckv = s.ckv ∨ CkvSetEvent s t ∨ CkvClearEvent s t := by
  rcases step_next h with ⟨engineNext, performed⟩ | ⟨hostNext, op, taken, hop⟩ | ⟨-, -, rfl⟩
  · obtain ⟨w, hw, ⟨i, p, hi, hp, rfl⟩ | ⟨e, -, rfl⟩⟩ := perform_effect performed
    · exact Performs.ckv_or_event ⟨engineNext, w, hw, hi⟩ hp
    · exact .inl rfl
  · exact (Takes.ckv_or_event ⟨hostNext, taken⟩ hop).imp_right .inr
  · exact .inl rfl

/-! ## The statements -/

/-- Settles O8: the engine performs the latched word, and a legal word is performed as its command. -/
theorem engineStepRunsTheDecodedCommand : Obligations.EngineStepRunsTheDecodedCommand := fun s _ _ hb next hw hi =>
  (step_performWord hb next hw).trans (performWord_ok hi s)

/-- Settles O10: the write of `CMD` issues the word, and `issue` writes the latch, the report and the latency. -/
theorem acceptedCommandWriteLatches : Obligations.AcceptedCommandWriteLatches := fun _ v hb hr =>
  ⟨_, _, _, stepWith_write_reg hb hr .cmd v⟩

/-- Settles O11: of the aligned offsets only 0x08 addresses `STATUS`, whose write is taken; every other is dropped. -/
theorem writesWhileBusyAreDropped : Obligations.WritesWhileBusyAreDropped := by
  intro s off v hb hd hr ha
  have written := stepWith_write_eq (.inr hd) hr ha v
  rw [elapse_busy hb] at written
  constructor
  · intro isStatus
    rw [written, busWrite_status ((regAt_eq_status_iff ha).mpr isStatus)]
  · intro notStatus
    rw [written, busWrite_dropped (s := { s with delay := s.delay - 1 }) hb (mt (regAt_eq_status_iff ha).mp notStatus)]

/-- Settles O12: each offset is that of its register, whose write is the effect named; the offsets left are of registers that
ignore writes. -/
theorem acceptedWriteHasItsEffect : Obligations.AcceptedWriteHasItsEffect := by
  intro s v hb hr
  have written := fun r => stepWith_write_reg hb hr r v
  refine ⟨?ctrl, ?status, acceptedCommandWriteLatches s v hb hr, written .winLen, fun i => written (.win i), fun i => ?buf,
    ?buf8, ?ignored⟩
  case ctrl => rw [← writeReg_ctrl]; exact written .ctrl
  case status => rw [← writeReg_status]; exact written .status
  case buf =>
    exact ⟨_, written (.buf i), fun j hj => streamPut_getMsbD s.buf (32 * i.val) v j (by omega) hj⟩
  case buf8 => exact ⟨_, written .buf8, fun j hj => streamPut_topByte_getMsbD s.buf v hj⟩
  case ignored =>
    intro off ha range
    have ignores : ignoresWrites (regAt off) = true :=
      (ignoresWrites_regAtSlot_iff _ (slot_lt off)).mpr (by omega)
    rw [stepWith_write_idle hb hr ha, writeReg_of_ignoresWrites ignores]

/-- Settles O13: each offset is that of its register, which reads as its fields; the offsets left are reserved. -/
theorem idleReadReturnsTheRegister : Obligations.IdleReadReturnsTheRegister := by
  intro s hb
  have read := busReadValue_regOffset hb
  refine ⟨read .id, (read .ctrl).trans (readReg_ctrl s), ?status, read .cmd, read .index,
    (read .cksum).trans (readReg_cksum s), read .errinfo, read .langs, read .winLen, fun i => read (.win i), read .woutLen,
    fun i => read (.wout i), ?buf, ?buf8, fun i => read (.dig i), ?reserved⟩
  case status =>
    have busy0 : (BitVec.ofBool s.busy).setWidth 32 = 0#32 := by rw [hb]; rfl
    exact ((read .status).trans (statusWord_eq_or s)).trans (by rw [busy0, BitVec.or_zero])
  case buf =>
    intro i t ht
    exact (congrArg (BitVec.getMsbD · t) (read (.buf i))).trans (bufReg_getMsbD s.buf i ht)
  case buf8 =>
    intro t _
    exact (congrArg (BitVec.getMsbD · t) (read .buf8)).trans (bufReg8_getMsbD s.buf t)
  case reserved =>
    intro off range
    have reserved : regAt off = .reserved := (regAtSlot_eq_reserved_iff _ (slot_lt off)).mpr (by omega)
    rw [busReadValue_idle hb, reserved]
    rfl

/-- Settles O15: the slots listed are those of the registers readable while busy. -/
theorem busyReadIsADraw : Obligations.BusyReadIsADraw := by
  intro s off hb
  have slots := readableWhileBusy_regAtSlot_iff _ (slot_lt off)
  constructor
  · intro listed
    have noDraw : readIsDraw (regAt off) s = false := by
      rw [readIsDraw, regAt, slots.mpr listed]
      exact Bool.and_false _
    exact ⟨by rw [busReadValue, noDraw]; rfl, noDraw⟩
  · intro notListed
    have draw : readIsDraw (regAt off) s = true := by
      rw [readIsDraw, hb, regAt, Bool.eq_false_of_not_eq_true (mt slots.mp notListed)]
      rfl
    exact ⟨by rw [busReadValue, draw]; rfl, draw⟩

/-- Settles O19: the two events clear `OVR`, and neither the engine's step nor another host step does. -/
theorem ovrIsClearedOnlyByStatusWriteOrReset : Obligations.OvrIsClearedOnlyByStatusWriteOrReset := by
  refine ⟨fun s v bit hr hh => ?_, fun s hh => ⟨_, stepWith_eq hh, rfl⟩, fun s t h set cleared => ?_⟩
  · refine ⟨_, stepWith_write_eq hh hr rfl v, ?_⟩
    rw [busWrite_status rfl, if_pos bit]
  · rcases step_next h with ⟨-, performed⟩ | ⟨hostNext, op, taken, hop⟩ | ⟨-, -, rfl⟩
    · rw [perform_ovr performed, set] at cleared
      cases cleared
    · rcases hostStep_clears_ovr hop set cleared with rfl | ⟨tgt, off, v, rfl, hoff, status, bit⟩
      · exact .inl ⟨hostNext, taken⟩
      · exact .inr ⟨tgt, off, v, ⟨hostNext, taken⟩, hoff, status, bit⟩
    · rw [set] at cleared
      cases cleared

/-- Settles O20: each listed event writes `CKV` as listed, and a step that does not keep `CKV` is a listed event. -/
theorem ckvChangesOnlyByTheListedEvents : Obligations.CkvChangesOnlyByTheListedEvents := fun _ _ h =>
  ⟨fun set => set.ckv h, fun clear => clear.ckv h,
    fun notSet notClear => (step_ckv_or_event h).resolve_right (not_or.mpr ⟨notSet, notClear⟩)⟩

/-- Settles O21, by induction on the latency: until it has passed, or the script is empty, the host takes one accepted
operation. -/
theorem commandInFlightIsPerformed : Obligations.CommandInFlightIsPerformed := by
  intro s hb hr accepted
  induction hd : s.delay generalizing s with
  | zero => exact ⟨0, Nat.le_refl 0, s, rfl, (engineMovesNext_iff s).mpr ⟨hb, .inl hd⟩, rfl⟩
  | succ d ih =>
    cases script : s.script with
    | nil => exact ⟨0, Nat.zero_le _, s, rfl, (engineMovesNext_iff s).mpr ⟨hb, .inr script⟩, rfl⟩
    | cons op rest =>
      rw [script, List.all_cons, Bool.and_eq_true] at accepted
      obtain ⟨opAccepted, restAccepted⟩ := accepted
      obtain ⟨u, hu, busy, resetLine, cmdq, delay, scriptOf⟩ := hostStep_acceptedOp opAccepted hb hr
      have hostNext : engineMovesNext s = false := by simp [engineMovesNext, hd, script]
      have stepped : step s = .next u := (step_host hostNext script).trans hu
      have uAccepted : u.script.all acceptedOp = true := by
        rcases scriptOf with e | e <;> simp [e, script, opAccepted, restAccepted]
      obtain ⟨n, le, t, run, engineNext, kept⟩ := ih u busy resetLine uAccepted (by rw [delay, hd, Nat.add_sub_cancel])
      exact ⟨n + 1, Nat.succ_le_succ le, t, (run_succ stepped n).trans run, engineNext, kept.trans cmdq⟩

/-- Settles O23: `finish` writes the report, and the frame of the command's pseudocode is the layer above. -/
theorem everyCommandEnds : Obligations.EveryCommandEnds := by
  intro i s
  have effect := effect_effectOf i s
  obtain ⟨lang, ovr, cmdq, delay, delays, draws⟩ := effect.keeps_block
  obtain ⟨resetLine, script, responses⟩ := effect.keeps_host
  exact ⟨_, exec_eq i s, rfl, rfl, resultErr_iff _, lang, ovr, cmdq, resetLine, script, responses, delay, delays, draws,
    effect.keeps_ctrlCs, effect.keeps_win, effect.keeps_wout, effect.keeps_indexIdx, effect.keeps_found,
    effect.keeps_digest_and_buffer⟩

/-- Settles O24: an illegal word leaves only the report, and a command that fails has left no more than `Effect.error` says. -/
theorem failedCommandIsAllOrNothing : Obligations.FailedCommandIsAllOrNothing := by
  intro w s t h failed
  rcases performWord_next h with ⟨i, hw, hi⟩ | ⟨e, hw, rfl⟩
  · obtain ⟨⟨u, r⟩, hp, rfl⟩ := exec_effect hi
    cases r with
    | ok => cases failed
    | error e =>
      simp only [finish_ecode, resultCode, finish_errPos, hw, Except.ok.injEq]
      rcases hp.error with ⟨rfl, notIndexOf, code⟩ | ⟨rfl, ⟨k, rfl⟩, code⟩ | ⟨rfl, rfl, rfl⟩
      · exact ⟨fun h => absurd h code, fun _ => ⟨fun ⟨k, hk⟩ => absurd hk (notIndexOf k), fun _ => finish_error e _⟩⟩
      · exact ⟨fun h => absurd h code, fun _ => ⟨fun _ => finish_error e _, fun h => absurd rfl (h k)⟩⟩
      · exact ⟨fun _ => ⟨rfl, rfl⟩, fun h => absurd rfl h⟩
  · refine ⟨fun h => absurd h (by simp [resultCode, errorCode]), fun _ => ⟨fun ⟨k, hk⟩ => ?_, fun _ => rfl⟩⟩
    rw [hw] at hk
    cases hk

end Sys2Proof.Safety

/-! # Proofs of the statements of 41_checksum.md

First a layer of facts: the bits of the checksum, and an equation per case of `CHECKSUM` and `VERIFY`; then SHA-256: bytes,
padding, the engine's block, schedule, functions, compression, digest. Then what the statements' own terms say of these: the
entropy, `CKV = 1`, the turn of the loop, the constants. The statements are settled from these. -/

namespace Sys2Proof.Machine

/-! ## The checksum bits (41_checksum.md R96) -/

/-- A slice is the value whose bits are the stream bits from its start (00_scope.md R12). -/
theorem eq_streamSlice_iff {n : Nat} (v : BitVec n) (b : BitBuffer) {p : Nat} (h : p + n ≤ 264) :
    v = streamSlice b p n ↔ ∀ t < n, v.getMsbD t = b.getMsbD (p + t) := by
  have bit {t : Nat} (ht : t < n) : (streamSlice b p n).getMsbD t = b.getMsbD (p + t) := by
    rw [streamSlice_getMsbD b p n t h, decide_eq_true ht, Bool.true_and]
  constructor
  · rintro rfl t ht
    exact bit ht
  · exact fun hv => BitVec.eq_of_getMsbD_eq fun t ht => (hv t ht).trans (bit ht).symm

/-- A value of CS bits is the supplied checksum exactly when its bits are stream bits 32·CS .. 33·CS−1 (10_state.md
R37). -/
theorem eq_checksumBits_iff {cs : BitVec 4} {c : BitVec 8} (b : BitBuffer) (h : cs.toNat ≤ 8)
    (hc : c.toNat < 2 ^ cs.toNat) :
    c = checksumBits cs b ↔ ∀ t < cs.toNat, (c.setWidth cs.toNat).getMsbD t = b.getMsbD (32 * cs.toNat + t) := by
  have extended : (c.setWidth cs.toNat).setWidth 8 = c := by
    refine BitVec.eq_of_toNat_eq ?_
    rw [BitVec.toNat_setWidth, BitVec.toNat_setWidth, Nat.mod_eq_of_lt hc, Nat.mod_eq_of_lt c.isLt]
  have same : c = checksumBits cs b ↔ c.setWidth cs.toNat = streamSlice b (entBits cs) cs.toNat :=
    ⟨fun e => setWidth_byte_inj h (extended.trans e), fun e => extended.symm.trans (congrArg _ e)⟩
  rw [same, eq_streamSlice_iff _ b (by unfold entBits; omega), entBits]

/-- The checksum's CS bits are the first of the digest's first byte (41_checksum.md R96). -/
theorem csum_getMsbD {cs : BitVec 4} (d : List Byte) (h : cs.toNat ≤ 8) {t : Nat} (ht : t < cs.toNat) :
    ((csum cs d).setWidth cs.toNat).getMsbD t = (d.getD 0 0#8).getMsbD t := by
  have shifted : 8 - cs.toNat + (cs.toNat - 1 - t) = 8 - 1 - t := by omega
  have inByte : t < 8 := by omega
  have inChecksum : cs.toNat - 1 - t < cs.toNat := by omega
  simp only [csum, BitVec.getMsbD_eq_getLsbD, BitVec.getLsbD_setWidth, BitVec.getLsbD_ushiftRight, shifted, ht, inByte,
    inChecksum, decide_true, Bool.true_and]

/-- Putting back the supplied checksum changes nothing. -/
theorem putChecksumBits_checksumBits {cs : BitVec 4} (b : BitBuffer) (h : cs.toNat ≤ 8) :
    putChecksumBits cs (checksumBits cs b) b = b := by
  rw [putChecksumBits, checksumBits, BitVec.setWidth_setWidth_of_le _ h, BitVec.setWidth_eq]
  exact streamPut_slice_self b _ _ (by unfold entBits; omega)

/-- `CHECKSUM` writes the first CS bits of the digest as stream bits 32·CS .. 33·CS−1 (41_checksum.md R97). -/
theorem putChecksumBits_csum_getMsbD {cs : BitVec 4} (d : List Byte) (b : BitBuffer) (h : cs.toNat ≤ 8) {j : Nat}
    (hj : j < 264) :
    (putChecksumBits cs (csum cs d) b).getMsbD j =
      if 32 * cs.toNat ≤ j ∧ j < 33 * cs.toNat then (d.getD 0 0#8).getMsbD (j - 32 * cs.toNat) else b.getMsbD j := by
  have range : 32 * cs.toNat + cs.toNat = 33 * cs.toNat := by omega
  rw [putChecksumBits, entBits, streamPut_getMsbD _ _ _ _ (by omega) hj, range]
  split_ifs with hp
  · exact csum_getMsbD d h (by omega)
  · rfl

/-! ## `CHECKSUM` and `VERIFY`, an equation per case (41_checksum.md R97, R98) -/

theorem validCs_eq_false {cs : BitVec 4} (h : ¬ (4 ≤ cs.toNat ∧ cs.toNat ≤ 8)) : validCs cs = false :=
  Bool.eq_false_of_not_eq_true (mt validCs_iff.mp h)

/-- A command leaves one state. -/
theorem exec_unique {i : Instr} {s t u : State} (h : exec i s = .next t) (hu : exec i s = .next u) : u = t :=
  Host.Outcome.next.inj (hu.symm.trans h)

theorem exec_checksum_legal {s : State} (h : validCs s.ctrlCs = true) :
    exec .checksum s = .next (finish .ok
      { storeDigest s.ctrlCs (entropyDigest s.ctrlCs s.buf) (entropyChecksum s.ctrlCs s.buf) s with
        buf := putChecksumBits s.ctrlCs (entropyChecksum s.ctrlCs s.buf) s.buf }) := by
  simp only [exec_eq, effectOf, checksumEffect, h, if_true]

theorem exec_checksum_illegal {s : State} (h : validCs s.ctrlCs = false) :
    exec .checksum s = .next (finish (.error .invalidStrength) s) := by
  simp [exec_eq, effectOf, checksumEffect, h]

theorem exec_verify_match {s : State} (h : validCs s.ctrlCs = true)
    (hc : entropyChecksum s.ctrlCs s.buf = checksumBits s.ctrlCs s.buf) :
    exec .verify s = .next (finish .ok
      (storeDigest s.ctrlCs (entropyDigest s.ctrlCs s.buf) (entropyChecksum s.ctrlCs s.buf) s)) := by
  simp only [exec_eq, effectOf, verifyEffect, h, if_true, if_pos hc]

theorem exec_verify_mismatch {s : State} (h : validCs s.ctrlCs = true)
    (hc : entropyChecksum s.ctrlCs s.buf ≠ checksumBits s.ctrlCs s.buf) :
    exec .verify s = .next (finish (.error .checksumMismatch) (clearBuffer s)) := by
  simp only [exec_eq, effectOf, verifyEffect, h, if_true, if_neg hc]

theorem exec_verify_illegal {s : State} (h : validCs s.ctrlCs = false) :
    exec .verify s = .next (finish (.error .invalidWordCount) s) := by
  simp [exec_eq, effectOf, verifyEffect, h]

/-! ## Bytes of words -/

/-- Byte q of a word, the first the most significant (20_memory.md R52). -/
theorem wordBytes_getD (w : Word) {q : Nat} (hq : q < 4) : (wordBytes w).getD q 0#8 = w.extractLsb' (24 - 8 * q) 8 := by
  interval_cases q <;> rfl

theorem wordBytes_zero_getD (q : Nat) : (wordBytes 0#32).getD q 0#8 = 0#8 :=
  List.getElem?_getD_replicate_default_eq 0#8 4 q

/-- Four bytes read as a big-endian number, after the number a, are the word after a. -/
theorem foldl_wordBytes (a : Nat) (w : Word) :
    (wordBytes w).foldl (fun n x => 256 * n + x.toNat) a = 2 ^ 32 * a + w.toNat := by
  simp only [wordBytes, List.foldl_cons, List.foldl_nil, BitVec.extractLsb'_toNat, Nat.shiftRight_eq_div_pow]
  omega

/-- The bits of byte q of a word are the word's bits 8q .. 8q+7, the first the most significant. -/
theorem wordBytes_getD_getMsbD (w : Word) {q t : Nat} (hq : q < 4) (ht : t < 8) :
    ((wordBytes w).getD q 0#8).getMsbD t = w.getMsbD (8 * q + t) := by
  have bit : 24 - 8 * q + (8 - 1 - t) = 32 - 1 - (8 * q + t) := by omega
  have inByte : 8 - 1 - t < 8 := by omega
  have inWord : 8 * q + t < 32 := by omega
  simp only [wordBytes_getD w hq, BitVec.getMsbD_eq_getLsbD, BitVec.getLsbD_extractLsb', ht, inByte, inWord, bit,
    decide_true, Bool.true_and]

/-- Byte 4w + q of eight registers is byte q of register w. -/
theorem unpackBytes_getD (v : Vector Word 8) (w : Fin 8) {q : Nat} (hq : q < 4) :
    (unpackBytes v).getD (4 * w.val + q) 0#8 = v[w].extractLsb' (24 - 8 * q) 8 := by
  have register : v[w] = packWord (unpackBytes v) w.val := by
    conv_lhs => rw [← pack_unpackBytes v]
    fin_cases w <;> rfl
  rw [← wordBytes_getD _ hq, register, wordBytes_packWord]
  interval_cases q <;> rfl

/-- A packed word is the word with the same four bytes. -/
theorem packWord_eq {l : List Byte} {t : Nat} {w : Word}
    (h : ∀ q < 4, l.getD (4 * t + q) 0#8 = (wordBytes w).getD q 0#8) : packWord l t = w := by
  have first := h 0 (by decide)
  rw [Nat.add_zero] at first
  rw [packWord, first, h 1 (by decide), h 2 (by decide), h 3 (by decide)]
  exact append_wordBytes w

/-! ## Padding (41_checksum.md R90) -/

@[simp] theorem shaLengthBytes_length (n : Nat) : (shaLengthBytes n).length = 8 := rfl

/-- The eight length bytes, big-endian, are the length in bits of a message of fewer than 2^61 bytes. -/
theorem foldl_shaLengthBytes {n : Nat} (h : n < 2 ^ 61) :
    (shaLengthBytes n).foldl (fun n x => 256 * n + x.toNat) 0 = 8 * n := by
  rw [shaLengthBytes, List.foldl_append, foldl_wordBytes, foldl_wordBytes, BitVec.toNat_ofNat, BitVec.toNat_ofNat]
  omega

/-- The zero bytes complete a block. -/
theorem shaZeroBytes_completes (n : Nat) : (n + 1 + shaZeroBytes n + 8) % 64 = 0 := by
  unfold shaZeroBytes shaBlockBytes
  omega

/-- Fewer zero bytes complete none. -/
theorem shaZeroBytes_least {n z : Nat} (h : z < shaZeroBytes n) : (n + 1 + z + 8) % 64 ≠ 0 := by
  unfold shaZeroBytes shaBlockBytes at h
  omega

theorem shaPad_length (m : List Byte) : (shaPad m).length = m.length + 1 + shaZeroBytes m.length + 8 := by
  simp only [shaPad, List.length_append, List.length_singleton, List.length_replicate, shaLengthBytes_length]

/-- A message that leaves room for the padding in one block fills it up to the length bytes. -/
theorem shaZeroBytes_of_le {n : Nat} (h : n ≤ 55) : shaZeroBytes n = 55 - n := by
  unfold shaZeroBytes shaBlockBytes
  omega

/-- A padded message of one block: the message, 0x80, zeros, and the length from byte 56. -/
theorem shaPad_getD {m : List Byte} (h : m.length ≤ 55) (i : Nat) :
    (shaPad m).getD i 0#8 =
      if i < m.length then m.getD i 0#8
      else if i = m.length then 0x80#8
      else if i < 56 then 0#8
      else (shaLengthBytes m.length).getD (i - 56) 0#8 := by
  have zeros := shaZeroBytes_of_le h
  have marked : (m ++ [0x80#8]).length = m.length + 1 := by simp
  have filled : (m ++ [0x80#8] ++ List.replicate (shaZeroBytes m.length) 0#8).length = 56 := by
    rw [List.length_append, marked, List.length_replicate]
    omega
  rw [shaPad]
  split_ifs with inMessage mark inZeros
  · rw [List.getD_append _ _ _ _ (by omega), List.append_assoc, List.getD_append _ _ _ _ inMessage]
  · rw [List.getD_append _ _ _ _ (by omega), List.getD_append _ _ _ _ (by omega),
      List.getD_append_right _ _ _ _ mark.ge, mark, Nat.sub_self, List.getD_cons_zero]
  · rw [List.getD_append _ _ _ _ (by omega), List.getD_append_right _ _ _ _ (by omega), List.getD_replicate]
    omega
  · rw [List.getD_append_right _ _ _ _ (by omega), filled]

/-! ## The engine's block (41_checksum.md R95) -/

/-- The bytes of `BUFi` are entropy bytes 4i .. 4i+3 (10_state.md R36, R37). -/
theorem wordBytes_bufReg_getD (b : BitBuffer) {i q : Nat} (hi : i < 8) (hq : q < 4) :
    (wordBytes (bufReg b i)).getD q 0#8 = entropyByte b (4 * i + q) := by
  refine (eq_streamSlice_iff _ b (by omega)).mpr fun t ht => ?_
  rw [wordBytes_getD_getMsbD _ hq ht, bufReg_getMsbD b ⟨i, hi⟩ (by omega)]
  exact congrArg b.getMsbD (show 32 * i + (8 * q + t) = 8 * (4 * i + q) + t by omega)

theorem entropyBytes_length (cs : BitVec 4) (b : BitBuffer) : (entropyBytes cs b).length = 4 * cs.toNat := by
  simp [entropyBytes, entropyLength]

theorem entropyBytes_getD (cs : BitVec 4) (b : BitBuffer) {j : Nat} (hj : j < 4 * cs.toNat) :
    (entropyBytes cs b).getD j 0#8 = entropyByte b j := by
  simp [entropyBytes, entropyLength, hj]

/-- The words of the padded entropy (41_checksum.md R95). -/
theorem packWord_shaPad_entropy {cs : BitVec 4} (b : BitBuffer) (h : cs.toNat ≤ 8) {t : Nat} (ht : t < 16) :
    packWord (shaPad (entropyBytes cs b)) t =
      if t < cs.toNat then bufReg b t
      else if t = cs.toNat then 0x80000000#32
      else if t = 15 then BitVec.ofNat 32 (32 * cs.toNat)
      else 0#32 := by
  have length := entropyBytes_length cs b
  have padded := shaPad_getD (m := entropyBytes cs b) (by omega)
  rw [length] at padded
  split_ifs with inEntropy mark last <;> refine packWord_eq fun q hq => ?_
  · rw [padded, if_pos (by omega), entropyBytes_getD cs b (by omega), wordBytes_bufReg_getD b (by omega) hq]
  · rw [padded, if_neg (by omega), mark]
    cases q with
    | zero => exact if_pos rfl
    | succ q =>
      have zeroByte : q < 3 := by omega
      rw [if_neg (by omega), if_pos (by omega)]
      interval_cases q <;> rfl
  · rw [padded, if_neg (by omega), if_neg (by omega), if_neg (by omega), last, show 4 * 15 + q - 56 = 4 + q by omega,
      shaLengthBytes, List.getD_append_right _ _ _ _ (by simp), wordBytes_length, Nat.add_sub_cancel_left,
      show 8 * (4 * cs.toNat) = 32 * cs.toNat by omega]
  · rw [padded, if_neg (by omega), if_neg (by omega), wordBytes_zero_getD]
    by_cases before : 4 * t + q < 56
    · exact if_pos before
    · have short : 8 * (4 * cs.toNat) / 2 ^ 32 = 0 := by omega
      rw [if_neg before, shaLengthBytes, List.getD_append _ _ _ _ (by rw [wordBytes_length]; omega), short]
      exact wordBytes_zero_getD _

/-! ## The message schedule (41_checksum.md R92), held newest first -/

/-- A longer schedule is a shorter one with one more word. -/
theorem extendSchedule_succ (n : Nat) (ws : List Word) :
    extendSchedule (n + 1) ws = nextScheduleWord (extendSchedule n ws) :: extendSchedule n ws := by
  induction n generalizing ws with
  | zero => rfl
  | succ n ih => exact ih (nextScheduleWord ws :: ws)

/-- The words a schedule starts from stay its oldest. -/
theorem extendSchedule_getD_add (n : Nat) (ws : List Word) (i : Nat) :
    (extendSchedule n ws).getD (n + i) 0#32 = ws.getD i 0#32 := by
  induction n with
  | zero => rw [Nat.zero_add]; rfl
  | succ n ih => rw [extendSchedule_succ, Nat.succ_add, List.getD_cons_succ, ih]

/-- Each new word follows from the words before it. -/
theorem extendSchedule_getD {n i : Nat} (ws : List Word) (h : i < n) :
    (extendSchedule n ws).getD i 0#32 = nextScheduleWord ((extendSchedule n ws).drop (i + 1)) := by
  induction n generalizing i with
  | zero => cases h
  | succ n ih =>
    rw [extendSchedule_succ]
    cases i with
    | zero => rfl
    | succ i => exact ih (Nat.lt_of_succ_lt_succ h)

/-- Word t of a block's schedule, in the order in which the schedule is held. -/
theorem messageSchedule_getD {block : List Word} (h : block.length = 16) {t : Nat} (ht : t < 64) :
    (messageSchedule block).getD t 0#32 = (extendSchedule 48 block.reverse).getD (63 - t) 0#32 := by
  have length : (extendSchedule 48 block.reverse).length = 64 := by simp [h]
  have reversed := List.getElem?_reverse (l := extendSchedule 48 block.reverse) (i := t) (by omega)
  rw [messageSchedule, List.getD_eq_getElem?_getD, reversed, length]
  rfl

/-- The first 16 words are the block's. -/
theorem messageSchedule_getD_block {block : List Word} (h : block.length = 16) {t : Nat} (ht : t < 16) :
    (messageSchedule block).getD t 0#32 = block.getD t 0#32 := by
  have reversed := List.getElem?_reverse (l := block) (i := 15 - t) (by omega)
  rw [messageSchedule_getD h (by omega), show 63 - t = 48 + (15 - t) by omega, extendSchedule_getD_add,
    List.getD_eq_getElem?_getD, reversed, h, show 16 - 1 - (15 - t) = t by omega]
  rfl

/-- Each later word is σ1(W_{t−2}) + W_{t−7} + σ0(W_{t−15}) + W_{t−16}. -/
theorem messageSchedule_getD_later {block : List Word} (h : block.length = 16) {t : Nat} (ht : 16 ≤ t) (ht' : t < 64) :
    (messageSchedule block).getD t 0#32 =
      smallSigma1 ((messageSchedule block).getD (t - 2) 0#32) + (messageSchedule block).getD (t - 7) 0#32 +
        smallSigma0 ((messageSchedule block).getD (t - 15) 0#32) + (messageSchedule block).getD (t - 16) 0#32 := by
  have earlier {k : Nat} (hk : k < 16) :
      ((extendSchedule 48 block.reverse).drop (63 - t + 1)).getD k 0#32 =
        (messageSchedule block).getD (t - (k + 1)) 0#32 := by
    rw [messageSchedule_getD h (by omega), List.getD_eq_getElem?_getD, List.getElem?_drop, ← List.getD_eq_getElem?_getD]
    congr 1
    omega
  rw [messageSchedule_getD h ht', extendSchedule_getD _ (by omega), nextScheduleWord, earlier (by decide),
    earlier (by decide), earlier (by decide), earlier (by decide)]

/-! ## The functions, with rotation right (41_checksum.md R86, R87) -/

theorem smallSigma0_eq (x : Word) : smallSigma0 x = x.rotateRight 7 ^^^ x.rotateRight 18 ^^^ x >>> 3 := by
  simp only [smallSigma0, rotr_eq_rotateRight (by decide : 7 < 32), rotr_eq_rotateRight (by decide : 18 < 32)]

theorem smallSigma1_eq (x : Word) : smallSigma1 x = x.rotateRight 17 ^^^ x.rotateRight 19 ^^^ x >>> 10 := by
  simp only [smallSigma1, rotr_eq_rotateRight (by decide : 17 < 32), rotr_eq_rotateRight (by decide : 19 < 32)]

theorem bigSigma0_eq (x : Word) : bigSigma0 x = x.rotateRight 2 ^^^ x.rotateRight 13 ^^^ x.rotateRight 22 := by
  simp only [bigSigma0, rotr_eq_rotateRight (by decide : 2 < 32), rotr_eq_rotateRight (by decide : 13 < 32),
    rotr_eq_rotateRight (by decide : 22 < 32)]

theorem bigSigma1_eq (x : Word) : bigSigma1 x = x.rotateRight 6 ^^^ x.rotateRight 11 ^^^ x.rotateRight 25 := by
  simp only [bigSigma1, rotr_eq_rotateRight (by decide : 6 < 32), rotr_eq_rotateRight (by decide : 11 < 32),
    rotr_eq_rotateRight (by decide : 25 < 32)]

/-! ## Compression (41_checksum.md R93) -/

/-- The working variables before the first turn: the hash value. -/
def startWorking (hash : Vector Word 8) : Working :=
  ⟨hash[0], hash[1], hash[2], hash[3], hash[4], hash[5], hash[6], hash[7]⟩

/-- The working variables after t turns. -/
def workingAfter (hash : Vector Word 8) (block : List Word) (t : Nat) : Working :=
  shaRounds ((roundConstants.zip (messageSchedule block)).take t) (startWorking hash)

theorem workingAfter_succ (hash : Vector Word 8) {block : List Word} (h : block.length = 16) {t : Nat} (ht : t < 64) :
    workingAfter hash block (t + 1) =
      shaRound (workingAfter hash block t) (roundConstants.getD t 0#32) ((messageSchedule block).getD t 0#32) := by
  have constants : t < roundConstants.length := ht
  have schedule := messageSchedule_length h
  have turn : (roundConstants.zip (messageSchedule block))[t]? =
      some (roundConstants.getD t 0#32, (messageSchedule block).getD t 0#32) := by
    rw [List.getD_eq_getElem _ _ constants]
    simp [schedule, ht]
  rw [workingAfter, List.take_add_one, turn, shaRounds_append]
  rfl

/-- Compression is 64 turns from the hash value, added to it. -/
theorem compress_eq (hash : Vector Word 8) {block : List Word} (h : block.length = 16) :
    compress hash block =
      let x := workingAfter hash block 64
      #v[x.a + hash[0], x.b + hash[1], x.c + hash[2], x.d + hash[3],
         x.e + hash[4], x.f + hash[5], x.g + hash[6], x.h + hash[7]] := by
  have all : (roundConstants.zip (messageSchedule block)).take 64 = roundConstants.zip (messageSchedule block) :=
    List.take_of_length_le (by simp [messageSchedule_length h])
  rw [workingAfter, all]
  rfl

/-! ## Digest (41_checksum.md R91, R94) -/

/-- The hash value after the first j blocks of a message. -/
def hashAfter (m : List Byte) (j : Nat) : Vector Word 8 :=
  (List.range j).foldl (fun hash j => compress hash (shaBlockWords (shaPad m) j)) initialHash

theorem hashAfter_succ (m : List Byte) (j : Nat) :
    hashAfter m (j + 1) = compress (hashAfter m j) (shaBlockWords (shaPad m) j) := by
  rw [hashAfter, List.range_succ, List.foldl_append]
  rfl

theorem sha256Words_eq (m : List Byte) : sha256Words m = hashAfter m ((shaPad m).length / 64) := rfl

end Sys2Proof.Machine

namespace Sys2Proof.Safety

open Sys2Proof.Machine

/-! ## The entropy (10_state.md R37) -/

/-- The entropy bytes are the entropy, bit by bit. -/
theorem isEntropy_entropyBytes {cs : BitVec 4} (b : BitBuffer) (h : cs.toNat ≤ 8) :
    IsEntropy cs b (entropyBytes cs b) where
  length := entropyBytes_length cs b
  bits j hj t ht := by
    rw [entropyBytes_length] at hj
    rw [entropyBytes_getD cs b hj]
    exact (eq_streamSlice_iff _ b (by omega)).mp rfl t ht

/-- There is one entropy of a buffer. -/
theorem IsEntropy.unique {cs : BitVec 4} {b : BitBuffer} {m m' : List Byte} (h : IsEntropy cs b m)
    (h' : IsEntropy cs b m') : m = m' := by
  refine List.ext_getElem (h.length.trans h'.length.symm) fun j hj hj' => BitVec.eq_of_getMsbD_eq fun t ht => ?_
  rw [← List.getD_eq_getElem m 0#8 hj, ← List.getD_eq_getElem m' 0#8 hj', h.bits j hj t ht, h'.bits j hj' t ht]

/-- The entropy is that of every buffer with the same entropy bits. -/
theorem IsEntropy.congr {cs : BitVec 4} {b b' : BitBuffer} {m : List Byte} (h : IsEntropy cs b m)
    (agree : ∀ j < 32 * cs.toNat, b'.getMsbD j = b.getMsbD j) : IsEntropy cs b' m where
  length := h.length
  bits j hj t ht := by
    have length := h.length
    rw [h.bits j hj t ht, agree _ (by omega)]

/-- The engine digests the entropy. -/
theorem IsEntropy.digest_eq {cs : BitVec 4} {b : BitBuffer} {m : List Byte} (hm : IsEntropy cs b m) (h : cs.toNat ≤ 8) :
    entropyDigest cs b = sha256 m :=
  congrArg sha256 ((isEntropy_entropyBytes b h).unique hm)

/-- The checksum of the entropy is the one supplied exactly when the digest's first CS bits are (41_checksum.md R98). -/
theorem IsEntropy.checksum_eq_iff {cs : BitVec 4} {b : BitBuffer} {m : List Byte} (hm : IsEntropy cs b m)
    (h : cs.toNat ≤ 8) :
    entropyChecksum cs b = checksumBits cs b ↔
      ∀ t < cs.toNat, ((sha256 m).getD 0 0#8).getMsbD t = b.getMsbD (32 * cs.toNat + t) := by
  rw [entropyChecksum, hm.digest_eq h, eq_checksumBits_iff b h (csum_toNat_lt _ h)]
  exact forall₂_congr fun t ht => by rw [csum_getMsbD _ h ht]

/-! ## What `CKV = 1` says, for `CHECKSUM` and `VERIFY` -/

section Consistent

variable {t : State} (ht : CkvConsistent t) (ckv : t.ckv = true)
include ht ckv

/-- `DIG` holds the digest, as `CHECKSUM` and `VERIFY` store it. -/
theorem CkvConsistent.dig_eq : t.dig = packBytes (entropyDigest t.ctrlCs t.buf) := by
  rw [← pack_unpackBytes t.dig, ht.digest ckv, entropyDigest]

/-- `CKSUM.VAL` is the checksum of the entropy. -/
theorem CkvConsistent.cksumVal_eq : t.cksumVal = entropyChecksum t.ctrlCs t.buf := by
  rw [ht.cksumVal ckv, ht.dig_eq ckv, packBytes_firstByte]
  rfl

/-- The buffer supplies the checksum of the entropy. -/
theorem CkvConsistent.entropyChecksum_eq : entropyChecksum t.ctrlCs t.buf = checksumBits t.ctrlCs t.buf := by
  rw [ht.storedBits ckv, ht.cksumVal_eq ckv]

/-- Storing the digest and the checksum again changes nothing. -/
theorem CkvConsistent.storeDigest_eq :
    storeDigest t.ctrlCs (entropyDigest t.ctrlCs t.buf) (entropyChecksum t.ctrlCs t.buf) t = t := by
  simp [State.ext_iff, ht.dig_eq ckv, ht.cksumVal_eq ckv, ht.cksumLen ckv, ckv]

/-- After a success, `CHECKSUM` changes nothing. -/
theorem CkvConsistent.exec_checksum (report : reportOk t = t) : exec .checksum t = .next t := by
  have legal := ht.validCs ckv
  rw [exec_checksum_legal legal, ht.storeDigest_eq ckv, ht.entropyChecksum_eq ckv,
    putChecksumBits_checksumBits t.buf (validCs_iff.mp legal).2]
  exact congrArg _ report

/-- After a success, `VERIFY` changes nothing. -/
theorem CkvConsistent.exec_verify (report : reportOk t = t) : exec .verify t = .next t := by
  rw [exec_verify_match (ht.validCs ckv) (ht.entropyChecksum_eq ckv), ht.storeDigest_eq ckv]
  exact congrArg _ report

end Consistent

/-- A successful `CHECKSUM` establishes what `CKV = 1` says, for the same legal `CS` (41_checksum.md R97). -/
theorem checksum_ok {s t : State} (h : exec .checksum s = .next t) (ok : t.err = false) :
    CkvConsistent t ∧ t.ckv = true ∧ reportOk t = t ∧ t.ctrlCs = s.ctrlCs := by
  cases legal : Machine.validCs s.ctrlCs with
  | true =>
    obtain rfl := exec_unique h (exec_checksum_legal legal)
    exact ⟨ckvConsistent_checksum legal, rfl, rfl, rfl⟩
  | false =>
    obtain rfl := exec_unique h (exec_checksum_illegal legal)
    cases ok

/-! ## The turn of the loop (41_checksum.md R93) -/

/-- The engine's round is a turn of the loop. -/
theorem isNextRound_shaRound (k w : Word) (x : Working) : IsNextRound k w x (shaRound x k w) := by
  refine ⟨_, _, rfl, rfl, rfl, rfl, rfl, ?_, rfl, rfl, rfl, ?_⟩
  · simp only [shaRound, roundT1, bigSigma1_eq, shaCh]
  · simp only [shaRound, roundT1, roundT2, bigSigma0_eq, bigSigma1_eq, shaCh, shaMaj]

/-! ## The constants (41_checksum.md R88, R89) -/

/-- w is the first 32 bits of the fractional part of the e-th root of p, with its whole part below 8: the definition in a
form that is decided by arithmetic. -/
def rootFractionBelow8 (e p : Nat) (w : Word) : Bool :=
  (List.range 8).any fun whole =>
    decide ((2 ^ 32 * whole + w.toNat) ^ e ≤ p * 2 ^ (32 * e)) &&
      decide (p * 2 ^ (32 * e) < (2 ^ 32 * whole + w.toNat + 1) ^ e)

theorem isRootFraction_of_below8 {e p : Nat} {w : Word} (h : rootFractionBelow8 e p w = true) : IsRootFraction e p w := by
  obtain ⟨whole, -, bounds⟩ := List.any_eq_true.mp h
  rw [Bool.and_eq_true, decide_eq_true_eq, decide_eq_true_eq] at bounds
  obtain ⟨low, high⟩ := bounds
  refine ⟨_, low, high, BitVec.eq_of_toNat_eq ?_⟩
  rw [BitVec.toNat_ofNat, Nat.mul_add_mod, Nat.mod_eq_of_lt w.isLt]

/-- Trial division by 2 .. 17: few enough divisors for the kernel to try on each number. -/
def trialPrime (p : Nat) : Bool :=
  decide (2 ≤ p) && (List.range' 2 16).all fun m => decide (p < m * m) || decide (p % m ≠ 0)

/-- Trial division by 2 .. 17 decides primality below 18². -/
theorem trialPrime_iff {p : Nat} (h : p < 18 * 18) : trialPrime p = true ↔ p.Prime := by
  have tried (m : Nat) (hm : m * m ≤ p) : m < 18 := Nat.mul_self_lt_mul_self_iff.mp (hm.trans_lt h)
  simp only [trialPrime, Nat.prime_def_le_sqrt, Nat.le_sqrt, Bool.and_eq_true, List.all_eq_true, Bool.or_eq_true,
    decide_eq_true_eq, List.mem_range'_1, Nat.dvd_iff_mod_eq_zero]
  refine and_congr_right fun _ => forall_congr' fun m => ⟨fun divides low square => ?_, fun divides range => ?_⟩
  · exact (divides ⟨low, tried m square⟩).resolve_left square.not_gt
  · exact (lt_or_ge p (m * m)).imp_right (divides range.1)

/-- From p on, for n numbers, each prime in turn has the next of the words from number i on as its root's fraction. -/
def rootFractionsFrom (e : Nat) (ws : List Word) : Nat → Nat → Nat → Bool
  | 0, _, _ => true
  | n + 1, p, i =>
    if trialPrime p then rootFractionBelow8 e p (ws.getD i 0#32) && rootFractionsFrom e ws n (p + 1) (i + 1)
    else rootFractionsFrom e ws n (p + 1) i

theorem isRootFraction_of_from {e n p q : Nat} {ws : List Word} (below : p + n ≤ 18 * 18)
    (h : rootFractionsFrom e ws n p (Nat.primeCounting' p) = true) (low : p ≤ q) (high : q < p + n) (hq : q.Prime) :
    IsRootFraction e q (ws.getD (Nat.primeCounting' q) 0#32) := by
  induction n generalizing p with
  | zero => omega
  | succ n ih =>
    have next : Nat.primeCounting' (p + 1) = Nat.primeCounting' p + if p.Prime then 1 else 0 := Nat.count_succ _ _
    rw [rootFractionsFrom] at h
    simp only [trialPrime_iff (show p < 18 * 18 by omega)] at h
    split_ifs at h next with prime
    · rw [Bool.and_eq_true, ← next] at h
      obtain ⟨here, later⟩ := h
      rcases low.eq_or_lt with rfl | after
      · exact isRootFraction_of_below8 here
      · exact ih (by omega) later after (by omega)
    · rw [← Nat.add_zero (Nat.primeCounting' p), ← next] at h
      have after : p ≠ q := fun same => prime (same ▸ hq)
      exact ih (by omega) h (by omega) (by omega)

/-- The round constants are the cube roots' fractions, prime by prime. -/
theorem roundConstants_rootFractions : rootFractionsFrom 3 roundConstants 312 0 (Nat.primeCounting' 0) = true := by
  decide +kernel

/-- The initial hash value's words are the square roots' fractions, prime by prime. -/
theorem initialHash_rootFractions : rootFractionsFrom 2 initialHash.toList 20 0 (Nat.primeCounting' 0) = true := by
  decide +kernel

/-! ## The statements -/

/-- Settles O27: the entropy is the list of entropy bytes that the engine digests, and the checksum is put bit by bit. -/
theorem checksumResult : Obligations.ChecksumResult := by
  intro s m hm
  refine ⟨fun range => ?_, fun range => exec_checksum_illegal (validCs_eq_false range)⟩
  have performed := exec_checksum_legal (validCs_iff.mpr range)
  rw [entropyChecksum, hm.digest_eq range.2] at performed
  exact ⟨_, _, performed, unpackBytes_packBytes_sha256 m, fun j hj => putChecksumBits_csum_getMsbD _ s.buf range.2 hj⟩

/-- Settles O28: the comparison of the two checksums is that of their CS bits, and each case is a case of `VERIFY`. -/
theorem verifyResult : Obligations.VerifyResult := by
  intro s m hm
  refine ⟨fun range => ⟨fun same => ?_, fun differ => ?_⟩, fun range => exec_verify_illegal (validCs_eq_false range)⟩
  · have performed := exec_verify_match (validCs_iff.mpr range) ((hm.checksum_eq_iff range.2).mpr same)
    rw [entropyChecksum, hm.digest_eq range.2] at performed
    exact ⟨_, performed, unpackBytes_packBytes_sha256 m⟩
  · exact exec_verify_mismatch (validCs_iff.mpr range) (mt (hm.checksum_eq_iff range.2).mp differ)

/-- Settles O29: with a legal `CS` the second `CHECKSUM` finds its results in place; with an illegal one both only report. -/
theorem checksumIsIdempotent : Obligations.ChecksumIsIdempotent := by
  intro s t h
  cases legal : validCs s.ctrlCs with
  | true =>
    obtain rfl := exec_unique h (exec_checksum_legal legal)
    exact (ckvConsistent_checksum legal).exec_checksum rfl rfl
  | false =>
    obtain rfl := exec_unique h (exec_checksum_illegal legal)
    exact exec_checksum_illegal legal

/-- Settles O30: `VERIFY` finds its results in place. -/
theorem verifyAcceptsWhatChecksumWrote : Obligations.VerifyAcceptsWhatChecksumWrote := by
  intro s t h ok
  obtain ⟨consistent, ckv, report, -⟩ := checksum_ok h ok
  exact consistent.exec_verify ckv report

/-- Settles O31: the changed buffer has the same entropy, so the same checksum, whose bits are those before the change and so
not those after it. -/
theorem verifyRejectsChangedChecksumBits : Obligations.VerifyRejectsChangedChecksumBits := by
  intro s t b h ok agree ⟨j, low, high, changed⟩
  obtain ⟨consistent, ckv, -, cs⟩ := checksum_ok h ok
  rw [← cs] at agree low high
  have legal := consistent.validCs ckv
  have le : t.ctrlCs.toNat ≤ 8 := (validCs_iff.mp legal).2
  have entropy := isEntropy_entropyBytes t.buf le
  have unequal : entropyChecksum t.ctrlCs b ≠ checksumBits t.ctrlCs b := fun same => by
    have before := (entropy.checksum_eq_iff le).mp (consistent.entropyChecksum_eq ckv) (j - 32 * t.ctrlCs.toNat) (by omega)
    have after := ((entropy.congr agree).checksum_eq_iff le).mp same (j - 32 * t.ctrlCs.toNat) (by omega)
    rw [before, Nat.add_sub_cancel' low] at after
    exact changed after.symm
  exact ⟨_, exec_verify_mismatch (s := { t with buf := b }) legal unequal, rfl, rfl, rfl, rfl, rfl, rfl, rfl⟩

/-- Settles O32: every case of the two commands is chosen by `CS` and the buffer, and writes what it computes from them. -/
theorem checksumCommandsDependOnCsAndBufferOnly : Obligations.ChecksumCommandsDependOnCsAndBufferOnly := by
  intro i s s' t t' hi hcs hbuf h h'
  cases legal : validCs s.ctrlCs with
  | true =>
    have legal' : validCs s'.ctrlCs = true := hcs ▸ legal
    rcases hi with rfl | rfl
    · obtain rfl := exec_unique h (exec_checksum_legal legal)
      obtain rfl := exec_unique h' (exec_checksum_legal legal')
      simp [hcs, hbuf]
    · by_cases hc : entropyChecksum s.ctrlCs s.buf = checksumBits s.ctrlCs s.buf
      · have hc' : entropyChecksum s'.ctrlCs s'.buf = checksumBits s'.ctrlCs s'.buf := hcs ▸ hbuf ▸ hc
        obtain rfl := exec_unique h (exec_verify_match legal hc)
        obtain rfl := exec_unique h' (exec_verify_match legal' hc')
        simp [hcs, hbuf]
      · have hc' : entropyChecksum s'.ctrlCs s'.buf ≠ checksumBits s'.ctrlCs s'.buf := hcs ▸ hbuf ▸ hc
        obtain rfl := exec_unique h (exec_verify_mismatch legal hc)
        obtain rfl := exec_unique h' (exec_verify_mismatch legal' hc')
        simp
  | false =>
    have legal' : validCs s'.ctrlCs = false := hcs ▸ legal
    have notInRange : ¬ (4 ≤ s.ctrlCs.toNat ∧ s.ctrlCs.toNat ≤ 8) := by simp [← validCs_iff, legal]
    rcases hi with rfl | rfl
    · obtain rfl := exec_unique h (exec_checksum_illegal legal)
      obtain rfl := exec_unique h' (exec_checksum_illegal legal')
      exact ⟨rfl, rfl, hbuf, fun range => absurd range notInRange⟩
    · obtain rfl := exec_unique h (exec_verify_illegal legal)
      obtain rfl := exec_unique h' (exec_verify_illegal legal')
      exact ⟨rfl, rfl, hbuf, fun range => absurd range notInRange⟩

/-- Settles O33: 4·CS bytes, 0x80 and the zeros up to byte 56 fill one block with the length, and each of its words is read
off from its four bytes. -/
theorem engineBlockIsTheEntropyRegisters : Obligations.EngineBlockIsTheEntropyRegisters := by
  intro cs b _ le
  have length := entropyBytes_length cs b
  have zeros := shaZeroBytes_of_le (n := (entropyBytes cs b).length) (by omega)
  refine ⟨by rw [shaPad_length]; omega, fun t ht => ?_⟩
  rw [shaBlockWords_getD _ 0 ht, Nat.mul_zero, Nat.zero_add, packWord_shaPad_entropy b le ht]

/-- Settles O34: the padding is `shaZeroBytes` zeros and `shaLengthBytes`. -/
theorem paddingIsTheLeast : Obligations.PaddingIsTheLeast := fun m short =>
  ⟨_, _, rfl, shaZeroBytes_completes m.length, fun _ => shaZeroBytes_least, shaLengthBytes_length _,
    foldl_shaLengthBytes short⟩

/-- Settles O35: the schedule, the turns and the blocks are those of the engine's lists, one at a time; the constants are
compared with the bounds of their roots, prime by prime. -/
theorem messageScheduleAndCompression : Obligations.MessageScheduleAndCompression := by
  refine ⟨fun block h => ⟨messageSchedule_length h, fun t => messageSchedule_getD_block h, ?schedule⟩,
    fun hash block h => ⟨workingAfter hash block, rfl, ?turns, compress_eq hash h⟩, ?cubeRoots, ?squareRoots,
    fun m => ⟨hashAfter m, rfl, ?blocks, sha256_length m, ?digest⟩⟩
  case schedule =>
    intro t low high
    have later := messageSchedule_getD_later h low high
    rwa [smallSigma1_eq, smallSigma0_eq] at later
  case turns =>
    intro t ht
    rw [workingAfter_succ hash h ht]
    exact isNextRound_shaRound _ _ _
  case cubeRoots =>
    intro p prime le
    exact isRootFraction_of_from (by decide) roundConstants_rootFractions (Nat.zero_le p) (by omega) prime
  case squareRoots =>
    intro p prime le
    exact isRootFraction_of_from (by decide) initialHash_rootFractions (Nat.zero_le p) (by omega) prime
  case blocks =>
    intro j _
    refine ⟨shaBlockWords (shaPad m) j, shaBlockWords_length _ j, fun t ht => ?_, hashAfter_succ m j⟩
    rw [shaBlockWords_getD _ j ht, packWord, show 4 * (16 * j + t) = 64 * j + 4 * t by omega]
  case digest =>
    intro w q hq
    rw [sha256, sha256Words_eq]
    exact unpackBytes_getD _ w hq

end Sys2Proof.Safety

/-! # Proofs of the statements of 42_codec.md

First a layer of facts: each case of `Effect` is what its command performs, so that each clause of a statement is one of these
cases; the bits of a packed group; the two word counts. Then the sequences of the round trip, one lemma per loop. The
statements are settled from these. -/

namespace Sys2Proof.Machine

/-! ## Each case of a command's pseudocode is performed -/

/-- A command whose check fails leaves the state as it was. -/
theorem effectOf_of_rejects {s : State} {i : Instr} {e : CmdError} (h : Rejects s i e) : effectOf i s = (s, .error e) := by
  cases h with
  | checksumStrength h => simp [effectOf, checksumEffect, h]
  | extractStrength h => simp [effectOf, extractEffect, h]
  | extractNotReady h hv => simp [effectOf, extractEffect, h, hv]
  | extractRange h hv hk => simp [effectOf, extractEffect, h, hv, hk]
  | wordAtLanguage h => simp [effectOf, wordAtEffect, h]
  | beginCount h => simp [effectOf, beginEffect, h]
  | packCount h => simp [effectOf, packEffect, h]
  | packRange h hk => simp [effectOf, packEffect, h, hk]
  | verifyCount h => simp [effectOf, verifyEffect, h]

/-- The conditions of a case of `Effect` decide what the command's pseudocode leaves: the converse of `effect_effectOf`. -/
theorem Effect.effectOf_eq {s : State} {i : Instr} {p : State × Result} (h : Effect s i p) : effectOf i s = p := by
  cases h with
  | rejected h => exact effectOf_of_rejects h
  | nop | wipe => rfl
  | checksum h => simp [effectOf, checksumEffect, h]
  | extract h hv hk => simp [effectOf, extractEffect, h, hv, hk]
  | wordAt h => simp [effectOf, wordAtEffect, h]
  | indexFound h hm | indexUnknown h hm => simp [effectOf, indexOfEffect, h, hm]
  | indexLanguage h => simp [effectOf, indexOfEffect, h]
  | begin h => simp [effectOf, beginEffect, h]
  | pack h hk => simp [effectOf, packEffect, h, hk]
  | verified h hc | mismatch h hc => simp [effectOf, verifyEffect, h, hc]

/-- Performing a command ends with the case of `Effect` whose conditions hold: the converse of `exec_effect`. -/
theorem exec_of_effect {s : State} {i : Instr} {p : State × Result} (h : Effect s i p) :
    exec i s = .next (finish p.2 p.1) := by
  rw [exec_eq, h.effectOf_eq]

/-- A `PACK` that succeeds passed its checks, and wrote its group (42_codec.md R103). -/
theorem exec_pack_ok {k : BitVec 5} {i : WordIndex} {s t : State} (h : exec (.pack k i) s = .next t) (ok : t.err = false) :
    validCs s.ctrlCs = true ∧ k.toNat < wordCount s.ctrlCs ∧
      t = finish .ok { s with buf := putGroup k.toNat i s.buf, ckv := false } := by
  obtain ⟨p, hp, rfl⟩ := exec_effect h
  cases hp with
  | rejected => cases ok
  | pack legal inRange => exact ⟨legal, inRange, rfl⟩

/-- `PACK` overwrites the report it finds and reads none of it (40_lifecycle.md R80). -/
theorem exec_pack_finish (k : BitVec 5) (i : WordIndex) (r : Result) (s : State) :
    exec (.pack k i) (finish r s) = exec (.pack k i) s := by
  have performed := effect_effectOf (.pack k i) s
  rw [exec_eq _ s]
  generalize effectOf (.pack k i) s = p at performed
  cases performed with
  | rejected rejects =>
    cases rejects with
    | packCount illegal => exact (exec_of_effect (.rejected (.packCount (s := finish r s) illegal))).trans rfl
    | packRange legal past => exact (exec_of_effect (.rejected (.packRange (s := finish r s) legal past))).trans rfl
  | pack legal inRange => exact (exec_of_effect (.pack (s := finish r s) legal inRange)).trans rfl

/-- A `PACK` in range after another one adds its group to the buffer. -/
theorem exec_pack_after_pack {k : BitVec 5} {i : WordIndex} {s : State} (b : BitBuffer) (legal : validCs s.ctrlCs = true)
    (inRange : k.toNat < wordCount s.ctrlCs) :
    exec (.pack k i) (finish .ok { s with buf := b, ckv := false }) =
      .next (finish .ok { s with buf := putGroup k.toNat i b, ckv := false }) :=
  (exec_pack_finish k i _ _).trans (exec_of_effect (.pack (s := { s with buf := b, ckv := false }) legal inRange))

/-! ## Groups, bit by bit (42_codec.md R100) -/

/-- A legal strength has at most 24 groups (00_scope.md R15). -/
theorem wordCount_le {cs : BitVec 4} (h : validCs cs = true) : wordCount cs ≤ 24 :=
  Nat.mul_le_mul_left 3 (validCs_iff.mp h).2

/-- The bits of group k are stream bits 11k .. 11k+10, most significant first. -/
theorem group_getMsbD (b : BitBuffer) {k t : Nat} (hk : k < 24) (ht : t < 11) :
    (group b k).getMsbD t = b.getMsbD (11 * k + t) :=
  (eq_streamSlice_iff _ b (by omega)).mp rfl t ht

/-- Packing group k writes stream bits 11k .. 11k+10, most significant first, and keeps every other (42_codec.md R103). -/
theorem putGroup_getMsbD (b : BitBuffer) {k j : Nat} (i : WordIndex) (hk : k < 24) (hj : j < 264) :
    (putGroup k i b).getMsbD j = if 11 * k ≤ j ∧ j < 11 * k + 11 then i.getMsbD (j - 11 * k) else b.getMsbD j :=
  streamPut_getMsbD b (11 * k) i j (by omega) hj

/-- The last index packed into a group is the one kept. -/
theorem putGroup_putGroup_same (b : BitBuffer) {k : Nat} (i j : WordIndex) (hk : k < 24) :
    putGroup k j (putGroup k i b) = putGroup k j b := by
  refine BitVec.eq_of_getMsbD_eq fun n hn => ?_
  simp only [putGroup_getMsbD _ _ hk hn]
  split_ifs <;> rfl

/-- Groups do not overlap, so the order in which two are packed does not matter. -/
theorem putGroup_comm (b : BitBuffer) {k l : Nat} (i j : WordIndex) (hk : k < 24) (hl : l < 24) (ne : k ≠ l) :
    putGroup l j (putGroup k i b) = putGroup k i (putGroup l j b) := by
  refine BitVec.eq_of_getMsbD_eq fun n hn => ?_
  simp only [putGroup_getMsbD _ _ hk hn, putGroup_getMsbD _ _ hl hn]
  split_ifs
  · omega
  all_goals rfl

/-- Packing another buffer's group k copies its stream bits of that group: those whose number divided by 11 is k. -/
theorem putGroup_group_getMsbD (b c : BitBuffer) {k j : Nat} (hk : k < 24) (hj : j < 264) :
    (putGroup k (group b k) c).getMsbD j = if k = j / 11 then b.getMsbD j else c.getMsbD j := by
  rw [putGroup_getMsbD _ _ hk hj]
  by_cases inGroup : k = j / 11
  · rw [if_pos (by omega), if_pos inGroup, group_getMsbD b hk (by omega), Nat.add_sub_cancel' (by omega)]
  · rw [if_neg (by omega), if_neg inGroup]

/-- A slice depends on the stream bits in its range only. -/
theorem streamSlice_congr {b c : BitBuffer} {p n : Nat} (h : p + n ≤ 264)
    (agree : ∀ j, p ≤ j → j < p + n → b.getMsbD j = c.getMsbD j) : streamSlice b p n = streamSlice c p n :=
  (eq_streamSlice_iff _ c h).mpr fun t ht => by
    rw [← agree _ (by omega) (by omega), (eq_streamSlice_iff _ b h).mp rfl t ht]

/-- The supplied checksum depends on stream bits 32·CS .. 33·CS−1 only (10_state.md R37). -/
theorem checksumBits_congr {cs : BitVec 4} {b c : BitBuffer} (h : cs.toNat ≤ 8)
    (agree : ∀ j < 33 * cs.toNat, b.getMsbD j = c.getMsbD j) : checksumBits cs b = checksumBits cs c := by
  have range : entBits cs + cs.toNat = 33 * cs.toNat := by unfold entBits; omega
  exact congrArg (BitVec.setWidth 8) (streamSlice_congr (by omega) fun j _ high => agree j (range ▸ high))

/-! ## A group in register terms (42_codec.md R100) -/

/-- `BUF[q]` of R100: the nine registers of the bit buffer by number. -/
def numberedBufReg (s : State) (q : Nat) : Word :=
  if q = 8 then readReg .buf8 s else readReg (.buf (Fin.ofNat 8 q)) s

/-- The bits of `BUF[q]` are the stream bits from 32q, and 0 past the last of them (10_state.md R36). -/
theorem numberedBufReg_getMsbD (s : State) {q t : Nat} (hq : q ≤ 8) (ht : t < 32) :
    (numberedBufReg s q).getMsbD t = s.buf.getMsbD (32 * q + t) := by
  unfold numberedBufReg
  split_ifs with last
  · subst last
    rw [show readReg .buf8 s = bufReg8 s.buf from rfl, bufReg8_getMsbD]
    by_cases stored : t < 8
    · simp [stored]
    · rw [BitVec.getMsbD_of_ge s.buf _ (by omega), Bool.and_false]
  · have number : (Fin.ofNat 8 q).val = q := Nat.mod_eq_of_lt (by omega)
    rw [show readReg (.buf (Fin.ofNat 8 q)) s = bufReg s.buf (Fin.ofNat 8 q).val from rfl, bufReg_getMsbD _ _ ht, number]

/-- The bits of `BUF[q] ‖ BUF[q+1]` are the stream bits from 32q. -/
theorem numberedBufReg_append_getMsbD (s : State) {q t : Nat} (hq : q < 8) (ht : t < 64) :
    BitVec.getMsbD (w := 64) (numberedBufReg s q ++ numberedBufReg s (q + 1)) t = s.buf.getMsbD (32 * q + t) := by
  have joined := BitVec.getMsbD_append (x := numberedBufReg s q) (y := numberedBufReg s (q + 1)) (i := t)
  refine joined.trans ?_
  by_cases first : t < 32
  · rw [if_neg (by omega), numberedBufReg_getMsbD s (by omega) first]
  · rw [if_pos (by omega), numberedBufReg_getMsbD s (by omega) (by omega), show 32 * (q + 1) + (t - 32) = 32 * q + t by omega]

/-! ## Word counts (42_codec.md R102) -/

theorem legalWordCount_iff : ∀ n : BitVec 5, legalWordCount n = true ↔ n.toNat ∈ [12, 15, 18, 21, 24] := by decide

/-- A legal word count is three times the strength that `BEGIN` sets. -/
theorem legalWordCount_eq : ∀ n : BitVec 5, legalWordCount n = true → 3 * (BitVec.ofNat 4 (n.toNat / 3)).toNat = n.toNat := by
  decide

/-- The word count of a legal strength is one that `BEGIN` accepts, and gives that strength back. -/
theorem begin_wordCount : ∀ cs : BitVec 4, validCs cs = true →
    legalWordCount (BitVec.ofNat 5 (wordCount cs)) = true ∧
      BitVec.ofNat 4 ((BitVec.ofNat 5 (wordCount cs)).toNat / 3) = cs := by
  decide

end Sys2Proof.Machine

namespace Sys2Proof.Safety

open Sys2Proof.Machine

/-! ## The sequences of the round trip (42_codec.md R104) -/

/-- The group numbers of a legal strength are the numbers below its word count. -/
theorem exists_mem_groupNumbers_iff {cs : BitVec 4} (h : validCs cs = true) (n : Nat) :
    (∃ k ∈ groupNumbers cs, k.toNat = n) ↔ n < wordCount cs := by
  have le := wordCount_le h
  have number (m : Nat) (hm : m < wordCount cs) : (BitVec.ofNat 5 m).toNat = m := by
    rw [BitVec.toNat_ofNat, Nat.mod_eq_of_lt (by omega)]
  simp only [groupNumbers, List.mem_map, List.mem_range]
  constructor
  · rintro ⟨_, ⟨m, hm, rfl⟩, rfl⟩
    rwa [number m hm]
  · exact fun hn => ⟨_, ⟨n, hn, rfl⟩, number n hn⟩

/-- The group numbers of a legal strength are in range. -/
theorem groupNumbers_inRange {cs : BitVec 4} (h : validCs cs = true) : ∀ k ∈ groupNumbers cs, k.toNat < wordCount cs :=
  fun k hk => (exists_mem_groupNumbers_iff h _).mp ⟨k, hk, rfl⟩

/-- A command that succeeds hands its state on to the commands after it. -/
theorem runOk_cons_of_effect {i : Instr} {s p : State} (h : Effect s i (p, .ok)) (rest : List Instr) :
    runOk (i :: rest) s = runOk rest (finish .ok p) := by
  simp [runOk, exec_of_effect h, resultErr]

/-- `EXTRACT` of groups in range of a buffer with a valid checksum gives these groups: it keeps all that it reads
(42_codec.md R101). -/
theorem extractAll_groups {ks : List (BitVec 5)} {s : State} (legal : validCs s.ctrlCs = true) (ckv : s.ckv = true)
    (inRange : ∀ k ∈ ks, k.toNat < wordCount s.ctrlCs) :
    ∃ u, extractAll ks s = some (ks.map fun k => group s.buf k.toNat, u) := by
  induction ks generalizing s with
  | nil => exact ⟨s, rfl⟩
  | cons k ks ih =>
    obtain ⟨here, later⟩ := List.forall_mem_cons.mp inRange
    obtain ⟨u, hu⟩ := ih (s := finish .ok { s with indexIdx := group s.buf k.toNat }) legal ckv later
    refine ⟨u, ?_⟩
    rw [extractAll, runOk_cons_of_effect (.extract legal ckv here), runOk]
    simp [hu]

/-- `PACK` of buffer b's groups ks, all in range, succeeds and copies their stream bits; the stream bits that were already
those of b stay so (42_codec.md R103). -/
theorem runOk_pack_groups {ks : List (BitVec 5)} {s : State} (b : BitBuffer) (rest : List Instr)
    (legal : validCs s.ctrlCs = true) (inRange : ∀ k ∈ ks, k.toNat < wordCount s.ctrlCs) :
    ∃ v, runOk ((ks.map fun k => .pack k (group b k.toNat)) ++ rest) s = runOk rest v ∧ v.ctrlCs = s.ctrlCs ∧
      ∀ j < 264, (∃ k ∈ ks, k.toNat = j / 11) ∨ s.buf.getMsbD j = b.getMsbD j → v.buf.getMsbD j = b.getMsbD j := by
  induction ks generalizing s with
  | nil => exact ⟨s, rfl, rfl, by simp⟩
  | cons k ks ih =>
    obtain ⟨here, later⟩ := List.forall_mem_cons.mp inRange
    have lt : k.toNat < 24 := here.trans_le (wordCount_le legal)
    obtain ⟨v, run, cs, bits⟩ :=
      ih (s := finish .ok { s with buf := putGroup k.toNat (group b k.toNat) s.buf, ckv := false }) legal later
    refine ⟨v, (runOk_cons_of_effect (.pack legal here) _).trans run, cs, fun j hj copied => bits j hj ?_⟩
    rw [List.exists_mem_cons_iff] at copied
    rw [finish_buf, putGroup_group_getMsbD b s.buf lt hj]
    split_ifs with packedHere
    · exact .inr rfl
    · exact copied.imp_left (Or.resolve_left · packedHere)

/-- The decode of buffer b's groups copies its first 33·CS stream bits into a buffer of the same strength, up to `VERIFY`
(42_codec.md R104). -/
theorem runOk_decodeCommands {cs : BitVec 4} (legal : validCs cs = true) (b : BitBuffer) (s : State) :
    ∃ v, runOk (decodeCommands cs ((groupNumbers cs).map fun k => group b k.toNat)) s = runOk [.verify] v ∧
      v.ctrlCs = cs ∧ ∀ j < 33 * cs.toNat, v.buf.getMsbD j = b.getMsbD j := by
  obtain ⟨count, strength⟩ := begin_wordCount cs legal
  have le : cs.toNat ≤ 8 := (validCs_iff.mp legal).2
  have begun := Effect.begin (s := s) count
  rw [strength] at begun
  obtain ⟨v, run, sameCs, bits⟩ :=
    runOk_pack_groups (ks := groupNumbers cs) (s := finish .ok { clearBuffer s with ctrlCs := cs }) b [.verify] legal
      (groupNumbers_inRange legal)
  refine ⟨v, ?_, sameCs, fun j hj => bits j (by omega) (.inl ?_)⟩
  · rw [decodeCommands, List.zipWith_map_right, List.zipWith_self, runOk_cons_of_effect begun, run]
  · exact (exists_mem_groupNumbers_iff legal _).mpr (by unfold wordCount; omega)

/-- The entropy bytes depend on the first 32·CS stream bits only (10_state.md R37). -/
theorem entropyBytes_congr {cs : BitVec 4} {b c : BitBuffer} (h : cs.toNat ≤ 8)
    (agree : ∀ j < 32 * cs.toNat, b.getMsbD j = c.getMsbD j) : entropyBytes cs b = entropyBytes cs c :=
  (isEntropy_entropyBytes b h).unique ((isEntropy_entropyBytes c h).congr agree)

/-- `CHECKSUM` with a legal `CS` succeeds: it establishes what `CKV = 1` says and keeps the entropy (41_checksum.md
R97). -/
theorem runOk_checksum {s : State} (legal : validCs s.ctrlCs = true) :
    ∃ t, runOk [.checksum] s = some t ∧ CkvConsistent t ∧ t.ckv = true ∧ t.ctrlCs = s.ctrlCs ∧
      entropyBytes s.ctrlCs t.buf = entropyBytes s.ctrlCs s.buf :=
  ⟨_, runOk_cons_of_effect (.checksum legal) [], ckvConsistent_checksum legal, rfl, rfl,
    entropyBytes_putChecksumBits _ _ _ (validCs_iff.mp legal).2⟩

/-- `VERIFY` accepts a buffer that agrees, on its first 33·CS stream bits, with one that supplies its entropy's checksum
(41_checksum.md R98). -/
theorem runOk_verify_of_agree {s t : State} (ht : CkvConsistent t) (ckv : t.ckv = true) (cs : s.ctrlCs = t.ctrlCs)
    (agree : ∀ j < 33 * t.ctrlCs.toNat, s.buf.getMsbD j = t.buf.getMsbD j) :
    ∃ v, runOk [.verify] s = some v ∧ v.ckv = true ∧ v.ctrlCs = s.ctrlCs ∧ v.buf = s.buf := by
  have legal := ht.validCs ckv
  have le : t.ctrlCs.toNat ≤ 8 := (validCs_iff.mp legal).2
  have entropy : entropyBytes t.ctrlCs s.buf = entropyBytes t.ctrlCs t.buf :=
    entropyBytes_congr le fun j hj => agree j (by omega)
  have accepted : entropyChecksum t.ctrlCs s.buf = checksumBits t.ctrlCs s.buf := by
    rw [entropyChecksum, entropyDigest, entropy, checksumBits_congr le agree]
    exact ht.entropyChecksum_eq ckv
  rw [← cs] at legal accepted
  exact ⟨_, runOk_cons_of_effect (.verified legal accepted) [], rfl, rfl, rfl⟩

/-! ## The statements -/

/-- Settles O36: each clause is a case of `EXTRACT`, and the group's bits are stream bits. -/
theorem extractResult : Obligations.ExtractResult := by
  intro k s
  refine ⟨fun range ckv inRange => ?_, fun range => ?_, fun range ckv => ?_, fun range ckv past => ?_⟩
  · have legal := validCs_iff.mpr range
    have lt : k.toNat < 24 := inRange.trans_le (wordCount_le legal)
    exact ⟨_, exec_of_effect (.extract legal ckv inRange), fun t => group_getMsbD s.buf lt⟩
  · exact exec_of_effect (.rejected (.extractStrength (validCs_eq_false range)))
  · exact exec_of_effect (.rejected (.extractNotReady (validCs_iff.mpr range) ckv))
  · exact exec_of_effect (.rejected (.extractRange (validCs_iff.mpr range) ckv past.not_gt))

/-- Settles O37: the legal counts are the listed ones, each three times the strength set. -/
theorem beginResult : Obligations.BeginResult := by
  intro n s
  rw [← legalWordCount_iff]
  refine ⟨fun legal => ⟨_, legalWordCount_eq n legal, exec_of_effect (.begin legal)⟩, fun illegal => ?_⟩
  exact exec_of_effect (.rejected (.beginCount (Bool.eq_false_of_not_eq_true illegal)))

/-- Settles O38: each clause is a case of `PACK`, and a packed group is written bit by bit. -/
theorem packResult : Obligations.PackResult := by
  intro k i s
  refine ⟨fun range inRange => ?_, fun range => ?_, fun range past => ?_⟩
  · have legal := validCs_iff.mpr range
    have lt : k.toNat < 24 := inRange.trans_le (wordCount_le legal)
    exact ⟨_, exec_of_effect (.pack legal inRange), fun j => putGroup_getMsbD s.buf i lt⟩
  · exact exec_of_effect (.rejected (.packCount (validCs_eq_false range)))
  · exact exec_of_effect (.rejected (.packRange (validCs_iff.mpr range) past.not_gt))

/-- Settles O39: bit t of the group is stream bit 11k + t, which is bit r + t of the two registers' join. -/
theorem groupInRegisterTerms : Obligations.GroupInRegisterTerms := by
  intro s k hk
  refine BitVec.eq_of_getMsbD_eq fun t ht => ?_
  have place : 64 - (53 - 11 * k % 32 + 11 - t) = 11 * k % 32 + t := by omega
  have stream : 32 * (11 * k / 32) + (11 * k % 32 + t) = 11 * k + t := by omega
  have joined := numberedBufReg_append_getMsbD s (q := 11 * k / 32) (t := 11 * k % 32 + t) (by omega) (by omega)
  rw [group_getMsbD s.buf hk ht, BitVec.getMsbD_extractLsb', place, ← stream, ← joined]
  have inJoin : 53 - 11 * k % 32 + 11 - t ≤ 64 := by omega
  simp [ht, inJoin, numberedBufReg]

/-- Settles O40: the second `PACK` passes or fails the same checks, and overwrites the group the first one wrote. -/
theorem lastPackOfAGroupWins : Obligations.LastPackOfAGroupWins := by
  intro k i j s t h
  obtain ⟨p, hp, rfl⟩ := exec_effect h
  cases hp with
  | rejected => exact exec_pack_finish k j _ s
  | pack legal inRange =>
    have lt : k.toNat < 24 := inRange.trans_le (wordCount_le legal)
    rw [exec_of_effect (.pack legal inRange)]
    refine (exec_pack_after_pack _ legal inRange).trans ?_
    rw [putGroup_putGroup_same s.buf i j lt]

/-- Settles O41: both groups are in range, and are packed into the buffer independently. -/
theorem packsOfDifferentGroupsCommute : Obligations.PacksOfDifferentGroupsCommute := by
  intro k l i j s t u ne ht okt hu oku
  obtain ⟨legal, hk, rfl⟩ := exec_pack_ok ht okt
  obtain ⟨-, hl, rfl⟩ := exec_pack_ok hu oku
  have le := wordCount_le legal
  have numbers : k.toNat ≠ l.toNat := mt BitVec.eq_of_toNat_eq ne
  rw [exec_pack_after_pack _ legal hl, exec_pack_after_pack _ legal hk,
    putGroup_comm s.buf i j (hk.trans_le le) (hl.trans_le le) numbers]

/-- Settles O43: `CHECKSUM` makes the buffer supply its entropy's checksum, and the decode copies entropy and checksum bits,
so `VERIFY` accepts them. -/
theorem roundTripRecoversTheEntropy : Obligations.RoundTripRecoversTheEntropy := by
  intro s low le
  obtain ⟨t, encoded, consistent, ckv, cs, entropy⟩ := runOk_checksum (validCs_iff.mpr ⟨low, le⟩)
  rw [← cs] at le entropy ⊢
  have legal := consistent.validCs ckv
  obtain ⟨u, extracted⟩ := extractAll_groups legal ckv (groupNumbers_inRange legal)
  obtain ⟨v, decoded, csDecoded, agree⟩ := runOk_decodeCommands legal t.buf u
  obtain ⟨w, verified, ckvVerified, csVerified, bufVerified⟩ := runOk_verify_of_agree consistent ckv csDecoded agree
  have csKept : w.ctrlCs = t.ctrlCs := csVerified.trans csDecoded
  refine ⟨t, _, u, w, encoded, extracted, decoded.trans verified, ckvVerified, csKept, ?_⟩
  calc entropyBytes w.ctrlCs w.buf
    _ = entropyBytes t.ctrlCs v.buf := by rw [csKept, bufVerified]
    _ = entropyBytes t.ctrlCs t.buf := entropyBytes_congr le fun j hj => agree j (by omega)
    _ = entropyBytes t.ctrlCs s.buf := entropy

end Sys2Proof.Safety

/-! # Proofs of the statements of 43_wordlist.md

First a layer of facts: the input word and the match relation in terms of ROM entries, the word read back from the registers
that hold it, and the two commands when they succeed. The statements are settled from these. -/

namespace Sys2Proof.Machine

/-! ## Words in registers (43_wordlist.md R108, R109) -/

/-- The length field holds the length of any word that fits the registers. -/
theorem toNat_wordLength {w : List Byte} (le : w.length ≤ 32) : (BitVec.ofNat 6 w.length).toNat = w.length := by
  rw [BitVec.toNat_ofNat]
  omega

/-- Eight registers give back the word they hold. -/
theorem take_unpack_packBytes {w : List Byte} (le : w.length ≤ 32) : (unpackBytes (packBytes w)).take w.length = w := by
  rw [unpack_packBytes]
  refine List.ext_getElem (by simp [le]) fun j _ hj => ?_
  simp [hj]

/-- Eight registers hold a word zero filled. -/
theorem unpack_packBytes_getD (w : List Byte) {j : Nat} (hj : j < 32) :
    (unpackBytes (packBytes w)).getD j 0#8 = w.getD j 0#8 := by
  rw [unpack_packBytes, List.getD_eq_getElem _ _ (by simpa using hj), List.getElem_map, List.getElem_range]

theorem inputWord_eq_some_iff {s : State} {w : List Byte} :
    inputWord s = some w ↔
      (1 ≤ s.winLen.toNat ∧ s.winLen.toNat ≤ 32) ∧ (unpackBytes s.win).take s.winLen.toNat = w := by
  simp [inputWord]

/-- An input word has the length that `WIN_LEN` says. -/
theorem length_of_inputWord {s : State} {w : List Byte} (h : inputWord s = some w) : w.length = s.winLen.toNat := by
  obtain ⟨⟨-, le⟩, rfl⟩ := inputWord_eq_some_iff.mp h
  rw [List.length_take, unpackBytes_length, min_eq_left le]

/-- A ROM entry copied into `WIN` and `WIN_LEN` is the input word. -/
theorem inputWord_of_packed {s : State} {l : LangCode} {i : WordIndex} (hwin : s.win = packBytes (Config.rom l i))
    (hlen : s.winLen = BitVec.ofNat 6 (Config.rom l i).length) : inputWord s = some (Config.rom l i) := by
  obtain ⟨pos, le⟩ := Config.rom_length l i
  rw [inputWord_eq_some_iff, hlen, hwin, toNat_wordLength le]
  exact ⟨⟨pos, le⟩, take_unpack_packBytes le⟩

/-- The index that matches is the one whose ROM entry is the input word (43_wordlist.md R109). -/
theorem matchingIndex_eq_some_iff {l : LangCode} {s : State} {i : WordIndex} :
    matchingIndex l s = some i ↔ inputWord s = some (Config.rom l i) := by
  unfold matchingIndex
  split
  · next w hw => rw [cam_eq_some_iff, hw, Option.some.injEq, eq_comm]
  · next hw => simp [hw]

/-! ## The commands when they succeed (43_wordlist.md R108, R110) -/

theorem exec_wordAt_ok {i : WordIndex} {s t : State} (h : exec (.wordAt i) s = .next t) (ok : t.err = false) :
    Config.langSupported s.ctrlLang = true ∧ t = finish .ok (storeWord (Config.rom s.ctrlLang i) s) := by
  obtain ⟨p, hp, rfl⟩ := exec_effect h
  cases hp with
  | rejected => cases ok
  | wordAt supported => exact ⟨supported, rfl⟩

theorem exec_indexOf_ok {p : BitVec 5} {s t : State} (h : exec (.indexOf p) s = .next t) (ok : t.err = false) :
    Config.langSupported s.ctrlLang = true ∧
      ∃ i, matchingIndex s.ctrlLang s = some i ∧ t = finish .ok { s with indexIdx := i, found := true } := by
  obtain ⟨q, hq, rfl⟩ := exec_effect h
  cases hq with
  | rejected | indexUnknown | indexLanguage => cases ok
  | indexFound supported found => exact ⟨supported, _, found, rfl⟩

end Sys2Proof.Machine

namespace Sys2Proof.Safety

open Sys2Proof.Machine

/-- The match relation, byte by byte, is the one that the CAM searches by (43_wordlist.md R109). -/
theorem entryMatches_iff {s : State} {l : LangCode} {i : WordIndex} :
    EntryMatches s l i ↔ matchingIndex l s = some i := by
  rw [matchingIndex_eq_some_iff]
  constructor
  · rintro ⟨pos, le, sameLength, sameBytes⟩
    refine inputWord_eq_some_iff.mpr ⟨⟨pos, le⟩, List.ext_getElem ?_ fun j _ hj => ?_⟩
    · rw [List.length_take, unpackBytes_length, min_eq_left le, sameLength]
    · have same := sameBytes j (sameLength ▸ hj)
      rw [List.getD_eq_getElem _ _ hj, List.getD_eq_getElem _ _ (by rw [unpackBytes_length]; omega)] at same
      rw [List.getElem_take, same]
  · intro h
    obtain ⟨⟨pos, le⟩, word⟩ := inputWord_eq_some_iff.mp h
    refine ⟨pos, le, length_of_inputWord h, fun j hj => ?_⟩
    rw [← word, List.getD_eq_getElem?_getD, List.getElem?_take_of_lt hj, List.getD_eq_getElem?_getD]

/-! ## The statements -/

/-- Settles O47: the stored length and bytes are the entry's, read back from the registers. -/
theorem wordAtResult : Obligations.WordAtResult := by
  intro i s
  have le := (Config.rom_length s.ctrlLang i).2
  refine ⟨fun supported => ⟨_, _, exec_of_effect (.wordAt supported), toNat_wordLength le, fun j hj => ?_⟩,
    fun unsupported => exec_of_effect (.rejected (.wordAtLanguage unsupported))⟩
  rw [unpack_packBytes_getD _ hj]
  split_ifs with inWord
  · rfl
  · exact List.getD_eq_default _ _ (not_lt.mp inWord)

/-- Settles O48: each clause is a case of `INDEX_OF`, which searches by the match relation. -/
theorem indexOfResult : Obligations.IndexOfResult := by
  intro p s
  simp only [entryMatches_iff]
  refine ⟨fun supported i found => exec_of_effect (.indexFound supported found), fun supported unknown => ?_,
    fun unsupported => exec_of_effect (.indexLanguage unsupported)⟩
  exact exec_of_effect (.indexUnknown supported (Option.eq_none_iff_forall_ne_some.mpr unknown))

/-- Settles O49: the word copied from `WOUT` is entry i, which `INDEX_OF` finds; the word that `INDEX_OF` found is the entry
that `WORD_AT` stores. -/
theorem wordAtAndIndexOfAreInverse : Obligations.WordAtAndIndexOfAreInverse := by
  constructor
  · intro i p s t h ok
    obtain ⟨supported, rfl⟩ := exec_wordAt_ok h ok
    refine ⟨_, exec_of_effect (.indexFound supported (matchingIndex_eq_some_iff.mpr ?input)), rfl, rfl⟩
    exact inputWord_of_packed rfl rfl
  · intro p s t h ok
    obtain ⟨supported, i, found, rfl⟩ := exec_indexOf_ok h ok
    have input := matchingIndex_eq_some_iff.mp found
    have length := length_of_inputWord input
    obtain ⟨-, word⟩ := inputWord_eq_some_iff.mp input
    refine ⟨_, exec_of_effect (.wordAt supported), rfl, ?sameLength, ?sameWord⟩
    case sameLength =>
      show BitVec.ofNat 6 (Config.rom s.ctrlLang i).length = s.winLen
      rw [length, BitVec.ofNat_toNat, BitVec.setWidth_eq]
    case sameWord =>
      show (unpackBytes (packBytes (Config.rom s.ctrlLang i))).take s.winLen.toNat = _
      rw [word, ← length, take_unpack_packBytes (Config.rom_length _ _).2]

end Sys2Proof.Safety

/-! # Proofs of the statements of 44_secure.md

First what a wiped state lets the host read: its working registers read as after reset, so that after `WIPE` a read depends on
`CTRL` and `OVR` alone. The statements are settled from this. -/

namespace Sys2Proof.Machine

/-! ## `WIPE` (44_secure.md R114) -/

/-- `WIPE` succeeds in every state. -/
theorem exec_wipe (s : State) : exec .wipe s = .next (finish .ok (wipeRegisters s)) := exec_of_effect .wipe

end Sys2Proof.Machine

namespace Sys2Proof.Safety

open Sys2Proof.Machine

/-! ## Reads of a wiped state (44_secure.md R114, R118) -/

/-- The registers of a wiped state, by name. -/
theorem wiped_iff {s : State} : wiped s = true ↔
    s.buf = 0#264 ∧ s.dig = Vector.replicate 8 0#32 ∧ s.cksumVal = 0#8 ∧ s.cksumLen = 0#4 ∧ s.indexIdx = 0#11 ∧
      s.winLen = 0#6 ∧ s.win = Vector.replicate 8 0#32 ∧ s.woutLen = 0#6 ∧ s.wout = Vector.replicate 8 0#32 := by
  simp [wiped, and_assoc]

/-- `WIPE` leaves a wiped state. -/
theorem wiped_wipeRegisters (r : Result) (s : State) : wiped (finish r (wipeRegisters s)) = true := by
  simp [wiped_iff]

/-- Outside `CTRL`, `STATUS` and `ERRINFO`, a wiped state reads as after reset. -/
theorem readReg_of_wiped {s : State} (clean : wiped s = true) {r : Reg} (notCtrl : r ≠ .ctrl) (notStatus : r ≠ .status)
    (notErrinfo : r ≠ .errinfo) : readReg r s = readReg r State.reset := by
  obtain ⟨buf, dig, cksumVal, cksumLen, index, winLen, win, woutLen, wout⟩ := wiped_iff.mp clean
  cases r with
  | ctrl => exact absurd rfl notCtrl
  | status => exact absurd rfl notStatus
  | errinfo => exact absurd rfl notErrinfo
  | id | cmd | langs | reserved => rfl
  | index => exact congrArg (BitVec.setWidth 32) index
  | cksum => exact congrArg₂ (0#20 ++ · ++ ·) cksumLen cksumVal
  | winLen => exact congrArg (BitVec.setWidth 32) winLen
  | win i => exact congrArg (·[i]) win
  | woutLen => exact congrArg (BitVec.setWidth 32) woutLen
  | wout i => exact congrArg (·[i]) wout
  | buf i => exact congrArg (bufReg · i.val) buf
  | buf8 => exact congrArg bufReg8 buf
  | dig i => exact congrArg (·[i]) dig

/-- After `WIPE` every register reads the same whatever the state before held outside `CTRL` and `OVR`. -/
theorem readReg_wipe_congr {s s' : State} (cs : s.ctrlCs = s'.ctrlCs) (lang : s.ctrlLang = s'.ctrlLang)
    (ovr : s.ovr = s'.ovr) (r : Reg) :
    readReg r (finish .ok (wipeRegisters s)) = readReg r (finish .ok (wipeRegisters s')) := by
  by_cases ctrl : r = .ctrl
  · simp [ctrl, readReg, cs, lang]
  by_cases status : r = .status
  · simp [status, readReg, statusWord, ovr]
  by_cases errinfo : r = .errinfo
  · simp [errinfo, readReg]
  calc readReg r (finish .ok (wipeRegisters s))
    _ = readReg r State.reset := readReg_of_wiped (wiped_wipeRegisters _ s) ctrl status errinfo
    _ = readReg r (finish .ok (wipeRegisters s')) :=
      (readReg_of_wiped (wiped_wipeRegisters _ s') ctrl status errinfo).symm

/-! ## The statements -/

/-- Settles O51: `WIPE` leaves the block idle, so a read returns the register addressed, whose value `CTRL` and `OVR`
decide. -/
theorem wipeLeavesNoTrace : Obligations.WipeLeavesNoTrace := by
  intro s s' t t' off cs lang ovr performed performed'
  obtain rfl := Host.Outcome.next.inj ((exec_wipe s).symm.trans performed)
  obtain rfl := Host.Outcome.next.inj ((exec_wipe s').symm.trans performed')
  refine ⟨?_, wiped_wipeRegisters _ s⟩
  rw [busReadValue_idle (finish_busy _ _), busReadValue_idle (finish_busy _ _)]
  exact readReg_wipe_congr cs lang ovr (regAt off)

/-- Settles O50: the state `WIPE` leaves is the one named, field by field. -/
theorem wipeResult : Obligations.WipeResult := exec_wipe

/-- Settles O52: `NOP`'s pseudocode leaves the state it finds, and `finish` writes the report. -/
theorem nopResult : Obligations.NopResult := fun _ => exec_of_effect .nop

end Sys2Proof.Safety

/-! # Proofs of the statements of 60_exceptions.md

First the report's place among the register writes: `CMD` alone has a write that reaches it. Then the host's steps while the
block is idle. The statement is settled from these, for a block that reports an error is idle. -/

namespace Sys2Proof.Machine

/-! ## The error report and register writes (60_exceptions.md R126) -/

/-- Only `CMD` has a write that reaches `ERR` and `ECODE`. -/
theorem writeReg_report {r : Reg} (h : r ≠ .cmd) (v : Word) (s : State) :
    (writeReg r v s).err = s.err ∧ (writeReg r v s).ecode = s.ecode := by
  cases r with
  | cmd => exact absurd rfl h
  | _ => exact ⟨rfl, rfl⟩

end Sys2Proof.Machine

namespace Sys2Proof.Safety

open Sys2Proof.Machine

/-! ## The error report and the machine's step (60_exceptions.md R126) -/

/-- A block that reports an error has no command in flight (40_lifecycle.md R76). -/
theorem StatusConsistent.idle_of_err {s : State} (hs : StatusConsistent s) (reported : s.err = true) : s.busy = false :=
  Bool.eq_false_of_not_eq_true fun hb => by
    obtain ⟨-, clear⟩ := hs.busyClear hb
    rw [reported] at clear
    cases clear

/-- While the block is idle, a host step that is neither a write to `CMD` nor a reset keeps `ERR` and `ECODE`. -/
theorem Takes.keeps_report {op : HostOp} {s t : State} (takes : Takes op s) (hb : s.busy = false)
    (notCmd : ∀ v, ¬ WritesReg .cmd v s) (notReset : op ≠ .assertReset) (h : hostStep op s = .next t) :
    t.err = s.err ∧ t.ecode = s.ecode := by
  rcases hostStep_next h with
    ⟨_, _, _, _, -, -, rfl⟩ | ⟨tgt, w, v, off, rfl, accepted, rfl⟩ | ⟨-, -, rfl⟩ | ⟨isReset, -⟩ | ⟨-, rfl⟩
  · exact ⟨rfl, rfl⟩
  · obtain ⟨-, hoff, rfl, -⟩ := acceptAccess_next accepted
    rw [busWrite_idle hb, popScript_err, popScript_ecode]
    exact writeReg_report (fun isCmd => notCmd v ⟨hb, tgt, off, takes, hoff, isCmd⟩) v s
  · exact ⟨rfl, rfl⟩
  · exact absurd isReset notReset
  · exact ⟨rfl, rfl⟩

/-! ## The statement -/

/-- Settles O26: a block that reports an error is idle, so the engine does not move, and the host's steps that are left keep
the report. -/
theorem errorReportLastsUntilTheNextCommand : Obligations.ErrorReportLastsUntilTheNextCommand := by
  intro s t hs reported h notCmd notReset
  have idle : s.busy = false := hs.idle_of_err reported
  rcases step_next h with ⟨engineNext, -⟩ | ⟨hostNext, op, taken, hop⟩ | ⟨-, -, rfl⟩
  · obtain ⟨busy, -⟩ := (engineMovesNext_iff s).mp engineNext
    rw [idle] at busy
    cases busy
  · obtain ⟨err, ecode⟩ :=
      Takes.keeps_report ⟨hostNext, taken⟩ idle notCmd (fun isReset => notReset ⟨hostNext, isReset ▸ taken⟩) hop
    exact ⟨err.trans reported, ecode⟩
  · exact ⟨reported, rfl⟩

end Sys2Proof.Safety

/-! # Proofs of the statements of 70_reset_and_hazards.md

First what each kind of step does to the reset input, and what the registers hold and read as after reset. The statements are
settled from these. -/

namespace Sys2Proof.Machine

/-! ## The reset input (70_reset_and_hazards.md R134, R139) -/

/-- No command drives the reset input. -/
theorem perform_resetLine {s t : State} (h : perform s = .next t) : t.resetLine = s.resetLine := by
  obtain ⟨w, -, ⟨i, p, -, hp, rfl⟩ | ⟨e, -, rfl⟩⟩ := perform_effect h
  · obtain ⟨resetLine, -⟩ := hp.keeps_host
    exact resetLine
  · rfl

/-- No register write drives the reset input. -/
theorem writeReg_resetLine (r : Reg) (v : Word) (s : State) : (writeReg r v s).resetLine = s.resetLine := by
  cases r with
  | cmd => exact issue_resetLine v s
  | _ => rfl

/-- No host write drives the reset input, dropped or not. -/
theorem busWrite_resetLine (off : Offset) (v : Word) (s : State) : (busWrite off v s).resetLine = s.resetLine := by
  rcases busWrite_cases off v s with ⟨-, -, dropped⟩ | ⟨-, written⟩
  · rw [dropped]
  · rw [written, writeReg_resetLine]

/-- After a host step the reset input is released, unless the step asserted it: every access the block accepts is made with
the input released (R139). -/
theorem hostStep_resetLine {op : HostOp} {s t : State} (h : hostStep op s = .next t) :
    t.resetLine = false ∨ (op = .assertReset ∧ t = popScript { resetBlock s with resetLine := true }) := by
  rcases hostStep_next h with
    ⟨_, _, _, _, -, accepted, rfl⟩ | ⟨_, _, v, off, -, accepted, rfl⟩ | ⟨-, released, rfl⟩ | asserted | ⟨-, rfl⟩
  · obtain ⟨released, -⟩ := acceptAccess_next accepted
    exact .inl released
  · obtain ⟨released, -⟩ := acceptAccess_next accepted
    exact .inl ((busWrite_resetLine off v (elapse s)).trans released)
  · exact .inl released
  · exact .inr asserted
  · exact .inl rfl

/-! ## Reads after reset (70_reset_and_hazards.md R135) -/

/-- `ID` is one slot. -/
theorem regAtSlot_eq_id_iff : ∀ n < 64, regAtSlot n = .id ↔ n = 0 := by decide

/-- `LANGS` is one slot. -/
theorem regAtSlot_eq_langs_iff : ∀ n < 64, regAtSlot n = .langs ↔ n = 7 := by decide

/-- A slice of the cleared bit buffer is 0. -/
theorem streamSlice_zero (p n : Nat) : streamSlice 0#264 p n = 0#n := BitVec.extractLsb'_zero

/-- After reset every register but the two constants reads 0. -/
theorem readReg_reset {r : Reg} (notId : r ≠ .id) (notLangs : r ≠ .langs) : readReg r State.reset = 0#32 := by
  cases r with
  | id => exact absurd rfl notId
  | langs => exact absurd rfl notLangs
  | win i | wout i | dig i => exact Vector.getElem_replicate i.isLt
  | buf i => exact streamSlice_zero (32 * i.val) 32
  | buf8 => exact congrArg (· ++ 0#24) (streamSlice_zero 256 8)
  | _ => rfl

end Sys2Proof.Machine

namespace Sys2Proof.Safety

open Sys2Proof.Machine

/-! ## The invariants at reset -/

/-- With the reset input released nothing is said of the registers. -/
theorem heldInReset_of_released {s : State} (released : s.resetLine = false) : HeldInReset s := fun asserted => by
  rw [released] at asserted
  cases asserted

/-- A command is in flight only while the reset input is released: reset abandons it (R134). -/
theorem HeldInReset.released_of_busy {s : State} (hs : HeldInReset s) (hb : s.busy = true) : s.resetLine = false :=
  Bool.eq_false_of_not_eq_true fun asserted => by
    have idle : s.busy = false := congrArg State.busy (hs asserted)
    rw [hb] at idle
    cases idle

/-- After reset nothing is reported, recorded or in flight. -/
theorem statusConsistent_reset : StatusConsistent State.reset where
  errIffCode := by decide
  codeRaised h := absurd rfl h
  errDone h := nomatch h
  busyClear h := nomatch h
  busyLatched h := nomatch h
  posOnlyUnknownWord h := absurd rfl h

/-! ## The statements -/

/-- Settles O58: only `assertReset` asserts the reset input, and it resets the block; while the input is asserted no command
is in flight and no access is accepted, so no step moves a register. -/
theorem stepKeepsHeldInReset : Obligations.StepKeepsHeldInReset := by
  intro s t hs h
  rcases step_next h with ⟨engineNext, performed⟩ | ⟨-, op, -, hop⟩ | ⟨-, -, rfl⟩
  · obtain ⟨busy, -⟩ := (engineMovesNext_iff s).mp engineNext
    exact heldInReset_of_released ((perform_resetLine performed).trans (hs.released_of_busy busy))
  · rcases hostStep_resetLine hop with released | ⟨-, rfl⟩
    · exact heldInReset_of_released released
    · exact fun _ => rfl
  · exact hs

/-- Settles O53: the host takes the assertion next, and `resetBlock` is the state named, field by field. -/
theorem resetTakesEveryRegisterToItsResetValue : Obligations.ResetTakesEveryRegisterToItsResetValue := by
  intro s hostNext
  rw [stepWith_eq hostNext]
  refine ⟨rfl, fun t h => ?_⟩
  obtain rfl := Host.Outcome.next.inj h
  rfl

/-- Settles O54: the reset state is not busy, so a read returns the register addressed, and slots 0 and 7 alone address `ID`
and `LANGS`. -/
theorem readsAfterReset : Obligations.ReadsAfterReset := by
  intro off
  have isId : regAt off = .id ↔ off.toNat / 4 = 0 := regAtSlot_eq_id_iff _ (slot_lt off)
  have isLangs : regAt off = .langs ↔ off.toNat / 4 = 7 := regAtSlot_eq_langs_iff _ (slot_lt off)
  rw [busReadValue_idle rfl]
  split_ifs with slot0 slot7
  · rw [isId.mpr slot0]
    rfl
  · rw [isLangs.mpr slot7]
    rfl
  · exact readReg_reset (mt isId.mp slot0) (mt isLangs.mp slot7)

/-- Settles O59: at reset `CKV`, the report and the reset input are 0, and the output word is the empty one. -/
theorem resetMeetsTheInvariants : Obligations.ResetMeetsTheInvariants :=
  ⟨ckvConsistent_of_ckv_false rfl, statusConsistent_reset, woutTailZero_of_packed (w := []) (by decide) rfl rfl,
    heldInReset_of_released rfl⟩

end Sys2Proof.Safety
